-- ==== Sys2Proof/Word.lean ====
section
/-! DEFINITION. The words of PSC-I2CM: bytes, 16-bit quantities, and the name of a unit.
Widths follow rule R3 (00_scope.md): unit registers, enumeration fields, `valid`, `error` and
`nackCount` are 8 bits; addresses, lengths, indices and the baud divider are 16 bits. -/

namespace Sys2Proof

/-- An 8-bit quantity: a unit register, a byte of host memory, an enumeration field (R3). -/
abbrev Byte := BitVec 8

/-- A 16-bit quantity: a host-memory address, a length, an index, the baud divider, an access word (R3, R70). -/
abbrev Half := BitVec 16

/-- The two I2C units (R2, 00_scope.md §7): 0 is Primary, 1 is Secondary. -/
inductive UnitId where
  | primary
  | secondary
  deriving DecidableEq, Repr, Inhabited

/-- The unit number as the one bit it is in an access word (R70) and in `w.u` (R11). -/
def UnitId.bit : UnitId → BitVec 1
  | .primary => 0
  | .secondary => 1

/-- One value for each of the two units. The two register files are disjoint (R16), so this is two fields. -/
structure PerUnit (α : Type) where
  primary : α
  secondary : α
  deriving DecidableEq, Repr

/-- The value of one unit. -/
def PerUnit.get {α : Type} (p : PerUnit α) : UnitId → α
  | .primary => p.primary
  | .secondary => p.secondary

/-- The pair with the value of one unit replaced. -/
def PerUnit.set {α : Type} (p : PerUnit α) (u : UnitId) (a : α) : PerUnit α :=
  match u with
  | .primary => { p with primary := a }
  | .secondary => { p with secondary := a }

end Sys2Proof
end

