-- ==== Sys2Proof/Syntax.lean ====
section
/-! DEFINITION. The instructions of PSC-I2CM: the four commands a host submits and the twenty-two primitives the
engine issues, one constructor for each row of spec/opcode_table.json (30_encoding.md). -/

namespace Sys2Proof

/-- One row of spec/opcode_table.json each. A command's operands stand in frame order (R60); a primitive names its
unit, and its data byte or clock source where the row leaves one free (R70, R71). -/
inductive Instr where
  /-- BUILDCFG (R81). -/
  | buildcfg (cfgPtr : Half) (interfaceId clockSource : Byte) (baudDivider : Half)
  /-- ACTIVATE (R82). -/
  | activate (cfgPtr : Half)
  /-- BUILDTXN (R83). -/
  | buildtxn (txdPtr : Half) (interfaceId : Byte) (outPtr outLen address : Half) (direction : Byte)
      (respLen respPtr : Half)
  /-- EXECUTE (R84). -/
  | execute (txdPtr : Half)
  /-- DisableUnit (R101). -/
  | disableUnit (u : UnitId)
  /-- EnableUnit (R102). -/
  | enableUnit (u : UnitId)
  /-- ZeroCtl0 (R103). -/
  | zeroCtl0 (u : UnitId)
  /-- ZeroCtl1 (R104). -/
  | zeroCtl1 (u : UnitId)
  /-- SetModes (R105). -/
  | setModes (u : UnitId)
  /-- SelectClock (R106). The operand is the 8-bit clock source; only its bits 1:0 are used. -/
  | selectClock (u : UnitId) (c : Byte)
  /-- RoutePins (R107). -/
  | routePins (u : UnitId)
  /-- WriteBaudLow (R108). -/
  | writeBaudLow (u : UnitId) (b : Byte)
  /-- WriteBaudHigh (R109). -/
  | writeBaudHigh (u : UnitId) (b : Byte)
  /-- WriteSlaveAddr (R110). -/
  | writeSlaveAddr (u : UnitId) (a : Byte)
  /-- SetTR (R111). -/
  | setTR (u : UnitId)
  /-- ClearTR (R112). -/
  | clearTR (u : UnitId)
  /-- AssertStart (R113). -/
  | assertStart (u : UnitId)
  /-- AssertStop (R114). -/
  | assertStop (u : UnitId)
  /-- ReadTxRdy (R115). -/
  | readTxRdy (u : UnitId)
  /-- ReadRxRdy (R116). -/
  | readRxRdy (u : UnitId)
  /-- ReadNack (R117). -/
  | readNack (u : UnitId)
  /-- ReadSttPending (R118). -/
  | readSttPending (u : UnitId)
  /-- ReadStpPending (R119). -/
  | readStpPending (u : UnitId)
  /-- ClearTxRdy (R120). -/
  | clearTxRdy (u : UnitId)
  /-- WriteTx (R121). -/
  | writeTx (u : UnitId) (b : Byte)
  /-- ReadRx (R122). -/
  | readRx (u : UnitId)
  deriving DecidableEq, Repr

/-- The nine registers of a unit, by name (R16). -/
inductive UnitReg where
  | CTL0 | CTL1 | BRL | BRH | SA | IFG | TXBUF | RXBUF | PSEL
  deriving DecidableEq, Repr

/-- The four access kinds (R50). -/
inductive AccessKind where
  | RD | WR | SET | CLR
  deriving DecidableEq, Repr

/-- One register access, as the fields of its access word (R70). -/
structure Access where
  kind : AccessKind
  unit : UnitId
  reg : UnitReg
  data : Byte
  deriving DecidableEq, Repr

/-- An instruction as bits: a command is a frame of bytes (R60), a primitive an access word (R70). -/
inductive Encoded where
  | frame (bytes : List Byte)
  | access (word : Half)
  deriving DecidableEq, Repr

end Sys2Proof
end

