-- ==== Sys2Proof/WellFormed.lean ====
section
/-! DEFINITION. Which terms of `Instr` are instructions of the hardware. The types of the operands already carry the
widths, and no operand value of a command is an illegal encoding (R67), so one check is left: SelectClock's clock
source must fit the two bits its access word has for it (R71). -/

namespace Sys2Proof

/-- The instruction has an encoding that keeps every operand: SelectClock's operand is at most 3 (R71, R106). -/
def Instr.wellFormed : Instr → Bool
  | .selectClock _ c => decide (c ≤ 3)
  | .buildcfg _ _ _ _ | .activate _ | .buildtxn _ _ _ _ _ _ _ _ | .execute _ => true
  | .disableUnit _ | .enableUnit _ | .zeroCtl0 _ | .zeroCtl1 _ | .setModes _ | .routePins _ => true
  | .writeBaudLow _ _ | .writeBaudHigh _ _ | .writeSlaveAddr _ _ | .setTR _ | .clearTR _ => true
  | .assertStart _ | .assertStop _ | .readTxRdy _ | .readRxRdy _ | .readNack _ => true
  | .readSttPending _ | .readStpPending _ | .clearTxRdy _ | .writeTx _ _ | .readRx _ => true

end Sys2Proof
end

