-- ==== Sys2Proof/Decode.lean ====
section
/-! DEFINITION. Decoding and encoding (30_encoding.md): command frames (R60 to R66, R73) and access words (R70, R71).
The decoder is total and rejects by name; the encoder is written from the same tables. -/

namespace Sys2Proof

/-! ## Byte order and small fields (R43, R64) -/

/-- Bits 7:0 of a 16-bit quantity. -/
def lowByte (h : Half) : Byte := h.setWidth 8

/-- Bits 15:8 of a 16-bit quantity (`h >> 8`, a logical shift). -/
def highByte (h : Half) : Byte := (h >>> 8).setWidth 8

/-- A 16-bit operand assembled little-endian (R64): `hi ++ lo`. -/
def le16 (lo hi : Byte) : Half := hi ++ lo

/-! ## Rejections -/

/-- Why bits are not an instruction of this hardware. -/
inductive Reject where
  /-- A frame with no byte has no opcode. -/
  | emptyFrame
  /-- The opcode is `0x00` or `0x05` to `0xFF` (R66, V1). -/
  | reservedOpcode
  /-- The frame's length is not the length of its format (R66, V2). -/
  | wrongLength
  /-- Bit 13 of an access word is 1 (R70, V13). -/
  | reservedBit13
  /-- The access word names a register 9 to 15 (R16, V12). -/
  | reservedRegister
  /-- The access word is none of the twenty-two primitives' (R50: such an access is never issued). -/
  | noSuchPrimitive
  deriving DecidableEq, Repr

/-! ## Command frames -/

/-- The length of a command's format, from the opcode alone (R60, R65). -/
def formatLength (opcode : Byte) : Option Nat :=
  if opcode = 0x01 then some 7
  else if opcode = 0x02 then some 3
  else if opcode = 0x03 then some 15
  else if opcode = 0x04 then some 3
  else none

/-- Decoding a command frame (R73). -/
def decodeFrame : List Byte → Except Reject Instr
  | [] => .error .emptyFrame
  | opcode :: operands =>
    if opcode = 0x01 then
      match operands with
      | [p0, p1, id, clk, d0, d1] => .ok (.buildcfg (le16 p0 p1) id clk (le16 d0 d1))
      | _ => .error .wrongLength
    else if opcode = 0x02 then
      match operands with
      | [p0, p1] => .ok (.activate (le16 p0 p1))
      | _ => .error .wrongLength
    else if opcode = 0x03 then
      match operands with
      | [p0, p1, id, o0, o1, n0, n1, a0, a1, dir, r0, r1, q0, q1] =>
        .ok (.buildtxn (le16 p0 p1) id (le16 o0 o1) (le16 n0 n1) (le16 a0 a1) dir (le16 r0 r1) (le16 q0 q1))
      | _ => .error .wrongLength
    else if opcode = 0x04 then
      match operands with
      | [p0, p1] => .ok (.execute (le16 p0 p1))
      | _ => .error .wrongLength
    else .error .reservedOpcode

/-! ## Access words -/

/-- The `kind` field, bits 15:14 (R70). -/
def AccessKind.bits : AccessKind → BitVec 2
  | .RD => 0
  | .WR => 1
  | .SET => 2
  | .CLR => 3

/-- The access kind of a `kind` field (R70). -/
def AccessKind.ofBits (b : BitVec 2) : AccessKind :=
  if b = 0 then .RD else if b = 1 then .WR else if b = 2 then .SET else .CLR

/-- The register's number within its unit, bits 11:8 (R16, R70). -/
def UnitReg.bits : UnitReg → BitVec 4
  | .CTL0 => 0
  | .CTL1 => 1
  | .BRL => 2
  | .BRH => 3
  | .SA => 4
  | .IFG => 5
  | .TXBUF => 6
  | .RXBUF => 7
  | .PSEL => 8

/-- The register of a number; numbers 9 to 15 are reserved (R16). -/
def UnitReg.ofBits (b : BitVec 4) : Option UnitReg :=
  if b = 0 then some .CTL0
  else if b = 1 then some .CTL1
  else if b = 2 then some .BRL
  else if b = 3 then some .BRH
  else if b = 4 then some .SA
  else if b = 5 then some .IFG
  else if b = 6 then some .TXBUF
  else if b = 7 then some .RXBUF
  else if b = 8 then some .PSEL
  else none

/-- The unit of a `unit` field, bit 12 (R70). -/
def UnitId.ofBit (b : BitVec 1) : UnitId := if b = 0 then .primary else .secondary

/-- The unit an 8-bit `interfaceId` names; 2 to 255 name none (R68). -/
def UnitId.ofId (b : Byte) : Option UnitId :=
  if b = 0 then some .primary else if b = 1 then some .secondary else none

/-- The 16-bit word of a register access: kind, zero, unit, register number, data (R70). -/
def Access.word (a : Access) : Half :=
  a.kind.bits ++ (0 : BitVec 1) ++ a.unit.bit ++ a.reg.bits ++ a.data

/-- The fields of an access word, or why it is none (R70, V12, V13). -/
def Access.ofWord (w : Half) : Except Reject Access :=
  if w.getLsbD 13 then .error .reservedBit13
  else
    match UnitReg.ofBits (w.extractLsb' 8 4) with
    | none => .error .reservedRegister
    | some reg =>
      .ok { kind := AccessKind.ofBits (w.extractLsb' 14 2), unit := UnitId.ofBit (w.extractLsb' 12 1),
            reg := reg, data := w.extractLsb' 0 8 }

/-- The primitive that is a given register access (R71); every other combination of kind, register and data is no
instruction (R50). -/
def Access.primitive (a : Access) : Option Instr :=
  match a.kind, a.reg with
  | .SET, .CTL1 =>
    if a.data = 0x01 then some (.disableUnit a.unit)
    else if a.data = 0x02 then some (.assertStart a.unit)
    else if a.data = 0x04 then some (.assertStop a.unit)
    else if a.data = 0x10 then some (.setTR a.unit)
    else if a.data &&& 0x3F = 0 then some (.selectClock a.unit (a.data >>> 6))
    else none
  | .CLR, .CTL1 =>
    if a.data = 0x01 then some (.enableUnit a.unit)
    else if a.data = 0x10 then some (.clearTR a.unit)
    else none
  | .WR, .CTL0 => if a.data = 0x00 then some (.zeroCtl0 a.unit) else none
  | .WR, .CTL1 => if a.data = 0x00 then some (.zeroCtl1 a.unit) else none
  | .SET, .CTL0 => if a.data = 0x0F then some (.setModes a.unit) else none
  | .SET, .PSEL => if a.data = 0x03 then some (.routePins a.unit) else none
  | .WR, .BRL => some (.writeBaudLow a.unit a.data)
  | .WR, .BRH => some (.writeBaudHigh a.unit a.data)
  | .WR, .SA => some (.writeSlaveAddr a.unit a.data)
  | .WR, .TXBUF => some (.writeTx a.unit a.data)
  | .RD, .IFG =>
    if a.data = 0x02 then some (.readTxRdy a.unit)
    else if a.data = 0x01 then some (.readRxRdy a.unit)
    else if a.data = 0x04 then some (.readNack a.unit)
    else none
  | .RD, .CTL1 =>
    if a.data = 0x02 then some (.readSttPending a.unit)
    else if a.data = 0x04 then some (.readStpPending a.unit)
    else none
  | .CLR, .IFG => if a.data = 0x02 then some (.clearTxRdy a.unit) else none
  | .RD, .RXBUF => if a.data = 0xFF then some (.readRx a.unit) else none
  | _, _ => none

/-- Decoding an access word (R70, R71). -/
def decodeAccess (w : Half) : Except Reject Instr :=
  match Access.ofWord w with
  | .error r => .error r
  | .ok a =>
    match a.primitive with
    | none => .error .noSuchPrimitive
    | some i => .ok i

/-- Decoding any bits, frame or access word. -/
def decode : Encoded → Except Reject Instr
  | .frame bytes => decodeFrame bytes
  | .access w => decodeAccess w

/-! ## The encoder -/

/-- The register access a primitive is (R101 to R122; R71); none for a command. -/
def Instr.access : Instr → Option Access
  | .buildcfg _ _ _ _ | .activate _ | .buildtxn _ _ _ _ _ _ _ _ | .execute _ => none
  | .disableUnit u => some ⟨.SET, u, .CTL1, 0x01⟩
  | .enableUnit u => some ⟨.CLR, u, .CTL1, 0x01⟩
  | .zeroCtl0 u => some ⟨.WR, u, .CTL0, 0x00⟩
  | .zeroCtl1 u => some ⟨.WR, u, .CTL1, 0x00⟩
  | .setModes u => some ⟨.SET, u, .CTL0, 0x0F⟩
  | .selectClock u c => some ⟨.SET, u, .CTL1, c <<< 6⟩
  | .routePins u => some ⟨.SET, u, .PSEL, 0x03⟩
  | .writeBaudLow u b => some ⟨.WR, u, .BRL, b⟩
  | .writeBaudHigh u b => some ⟨.WR, u, .BRH, b⟩
  | .writeSlaveAddr u a => some ⟨.WR, u, .SA, a⟩
  | .setTR u => some ⟨.SET, u, .CTL1, 0x10⟩
  | .clearTR u => some ⟨.CLR, u, .CTL1, 0x10⟩
  | .assertStart u => some ⟨.SET, u, .CTL1, 0x02⟩
  | .assertStop u => some ⟨.SET, u, .CTL1, 0x04⟩
  | .readTxRdy u => some ⟨.RD, u, .IFG, 0x02⟩
  | .readRxRdy u => some ⟨.RD, u, .IFG, 0x01⟩
  | .readNack u => some ⟨.RD, u, .IFG, 0x04⟩
  | .readSttPending u => some ⟨.RD, u, .CTL1, 0x02⟩
  | .readStpPending u => some ⟨.RD, u, .CTL1, 0x04⟩
  | .clearTxRdy u => some ⟨.CLR, u, .IFG, 0x02⟩
  | .writeTx u b => some ⟨.WR, u, .TXBUF, b⟩
  | .readRx u => some ⟨.RD, u, .RXBUF, 0xFF⟩

/-- The frame of a command (R61 to R63); none for a primitive. -/
def Instr.frame : Instr → Option (List Byte)
  | .buildcfg p id clk div =>
    some [0x01, lowByte p, highByte p, id, clk, lowByte div, highByte div]
  | .activate p => some [0x02, lowByte p, highByte p]
  | .buildtxn p id outPtr outLen addr dir respLen respPtr =>
    some [0x03, lowByte p, highByte p, id, lowByte outPtr, highByte outPtr, lowByte outLen, highByte outLen,
      lowByte addr, highByte addr, dir, lowByte respLen, highByte respLen, lowByte respPtr, highByte respPtr]
  | .execute p => some [0x04, lowByte p, highByte p]
  | .disableUnit _ | .enableUnit _ | .zeroCtl0 _ | .zeroCtl1 _ | .setModes _ | .selectClock _ _ | .routePins _ => none
  | .writeBaudLow _ _ | .writeBaudHigh _ _ | .writeSlaveAddr _ _ | .setTR _ | .clearTR _ => none
  | .assertStart _ | .assertStop _ | .readTxRdy _ | .readRxRdy _ | .readNack _ => none
  | .readSttPending _ | .readStpPending _ | .clearTxRdy _ | .writeTx _ _ | .readRx _ => none

/-- The bits of an instruction: a command's frame, a primitive's access word. -/
def encode (i : Instr) : Encoded :=
  match i.access with
  | some a => .access a.word
  | none => .frame (i.frame.getD [])

/-! ## The table's numbering of bits -/

/-- `n` bytes of a number, the least significant first: the order in which a frame stands (R43, R60). -/
def bytesOf : Nat → Nat → List Byte
  | 0, _ => []
  | n + 1, w => BitVec.ofNat 8 w :: bytesOf n (w / 256)

/-- The instruction bits that a table row's number stands for: 16 bits that are an access word are one; all else is a
frame, padded with zero bytes to the length of its opcode's format (log entry 19). -/
def tableBits (nbits w : Nat) : Encoded :=
  match (if nbits = 16 then decodeAccess (BitVec.ofNat 16 w) else .error .noSuchPrimitive) with
  | .ok _ => .access (BitVec.ofNat 16 w)
  | .error _ =>
    .frame (bytesOf (max (nbits / 8) ((formatLength (BitVec.ofNat 8 w)).getD 0)) w)

/-- What the decoder reads from an instruction whose bits are `w`, numbered as spec/opcode_table.json numbers them. -/
def decodeTableWord (nbits w : Nat) : Option Instr :=
  match decode (tableBits nbits w) with
  | .ok i => some i
  | .error _ => none

end Sys2Proof
end

