-- ==== Sys2Proof/Machine/State.lean ====
section
/-! DEFINITION. The state of PSC-I2CM (10_state.md, rule R10), the ways a step can stop, and the state after reset
(70_reset_and_hazards.md, rule R210). Everything is plain data. -/

namespace Sys2Proof.Machine

/-! ## Result codes -/

/-- The six result codes (R69, R181). -/
inductive ErrorCode where
  | noError
  | notInitialized
  | badParameters
  | interfaceNotActive
  | nackLimitReached
  | unspecifiedError
  deriving DecidableEq, Repr

/-! ## Engine working registers (R11) -/

/-- `w.d`, the Descriptor latched at EXECUTE entry: 13 bytes, without the record's `error` byte (R11, R45). -/
structure Descriptor where
  interfaceId : Byte
  direction : Byte
  slaveAddress : Half
  outPtr : Half
  outLen : Half
  respLen : Half
  respPtr : Half
  valid : Byte
  deriving DecidableEq, Repr

/-- `w.c`, the Config latched at ACTIVATE entry: 5 bytes, without the record's `error` byte (R11, R44). -/
structure ConfigRec where
  interfaceId : Byte
  clockSource : Byte
  baudDivider : Half
  valid : Byte
  deriving DecidableEq, Repr

/-- The seven working registers of the engine (R11). -/
structure Working where
  d : Descriptor
  c : ConfigRec
  u : UnitId
  txIndex : Half
  rxIndex : Half
  nackCount : Byte
  stopIssued : Bool
  deriving DecidableEq, Repr

/-! ## The state register (R12) -/

/-- The eleven values of `st` (R12, V14). -/
inductive St where
  | S_IDLE | S_ENTRY | S_START | S_TX | S_PREP_RX | S_WAIT_STT | S_RX | S_STOP | S_WAIT_STP | S_ACT | S_BUILD
  deriving DecidableEq, Repr

/-- The number of an `st` value (R12, D30). -/
def St.number : St → BitVec 4
  | .S_IDLE => 0
  | .S_ENTRY => 1
  | .S_START => 2
  | .S_TX => 3
  | .S_PREP_RX => 4
  | .S_WAIT_STT => 5
  | .S_RX => 6
  | .S_STOP => 7
  | .S_WAIT_STP => 8
  | .S_ACT => 9
  | .S_BUILD => 10

/-- The ten register accesses of ACTIVATE, by the numbers rule R82 gives them: this is the access that comes next. -/
inductive ActStep where
  | hold | zero0 | zero1 | holdAgain | modes | clock | pins | baudLow | baudHigh | release
  deriving DecidableEq, Repr

/-- Where the engine is: a value of `st` (`EngineState.st`) and the place inside that state's rule, which is the next
atomic step the engine takes (R50, D16; log entry 7). The doc of a constructor names that step. -/
inductive EngineState where
  /-- S_IDLE: nothing. -/
  | idle
  /-- S_ENTRY: read the next byte of the Descriptor at `ptr`; `got` are the bytes read so far (R84). -/
  | entryLoad (ptr : Half) (got : List Byte)
  /-- S_ENTRY: raise the code of a failed entry check (R84). -/
  | entryRaise (code : ErrorCode)
  /-- S_START: WriteSlaveAddr (R131). -/
  | startAddr
  /-- S_START: SetTR (R131). -/
  | startTr
  /-- S_START: AssertStart (R131). -/
  | startStt
  /-- S_TX: ReadTxRdy (R133). -/
  | txPoll
  /-- S_TX: read the outgoing byte from host memory (R133). -/
  | txFetch
  /-- S_TX: WriteTx (R133). -/
  | txWrite
  /-- S_TX: ClearTxRdy, after the last byte (R133). -/
  | txClear
  /-- S_TX: ReadNack (R134). -/
  | txNack
  /-- S_TX: AssertStart of a retry (R135). -/
  | txRestart
  /-- S_TX: AssertStop of the abort (R137). -/
  | txStop
  /-- S_TX: DisableUnit of the abort (R137). -/
  | txDisable
  /-- S_TX: raise NackLimitReached (R137). -/
  | txRaise
  /-- S_PREP_RX: ClearTR (R138). -/
  | prepTr
  /-- S_PREP_RX: ClearTxRdy (R138). -/
  | prepClear
  /-- S_PREP_RX: AssertStart (R138). -/
  | prepStt
  /-- S_WAIT_STT: ReadSttPending (R139). -/
  | sttPoll
  /-- S_WAIT_STT: AssertStop (R139). -/
  | sttStop
  /-- S_RX: ReadRxRdy (R141). -/
  | rxPoll
  /-- S_RX: ReadRx (R141). -/
  | rxRead
  /-- S_RX: write the received byte to host memory (R141). -/
  | rxStore
  /-- S_RX: ReadNack (R142). -/
  | rxNack
  /-- S_RX: AssertStart of a retry (R142). -/
  | rxRestart
  /-- S_RX: AssertStop of the abort (R137). -/
  | rxStop
  /-- S_RX: DisableUnit of the abort (R137). -/
  | rxDisable
  /-- S_RX: raise NackLimitReached (R137). -/
  | rxRaise
  /-- S_STOP: AssertStop, or raise NoError if the STOP was already issued (R144). -/
  | stop
  /-- S_WAIT_STP: ReadStpPending (R145). -/
  | stpPoll
  /-- S_WAIT_STP: raise NoError (R146). -/
  | stpRaise
  /-- S_ACT: read the next byte of the Config at `ptr`; `got` are the bytes read so far (R82). -/
  | actLoad (ptr : Half) (got : List Byte)
  /-- S_ACT: the given register access (R82). -/
  | act (next : ActStep)
  /-- S_ACT: raise the command's code (R82). -/
  | actRaise (code : ErrorCode)
  /-- S_BUILD: write the next of the bytes still to be written, or raise the code if there is none (R81, R83). -/
  | build (writes : List (Half × Byte)) (code : ErrorCode)
  deriving DecidableEq, Repr

/-- The value of the state register `st` (R12). -/
def EngineState.st : EngineState → St
  | .idle => .S_IDLE
  | .entryLoad _ _ | .entryRaise _ => .S_ENTRY
  | .startAddr | .startTr | .startStt => .S_START
  | .txPoll | .txFetch | .txWrite | .txClear | .txNack | .txRestart | .txStop | .txDisable | .txRaise => .S_TX
  | .prepTr | .prepClear | .prepStt => .S_PREP_RX
  | .sttPoll | .sttStop => .S_WAIT_STT
  | .rxPoll | .rxRead | .rxStore | .rxNack | .rxRestart | .rxStop | .rxDisable | .rxRaise => .S_RX
  | .stop => .S_STOP
  | .stpPoll | .stpRaise => .S_WAIT_STP
  | .actLoad _ _ | .act _ | .actRaise _ => .S_ACT
  | .build _ _ => .S_BUILD

/-! ## Unit registers (R16 to R26) -/

/-- The nine 8-bit registers of one unit (R16). -/
structure UnitRegs where
  ctl0 : Byte
  ctl1 : Byte
  brl : Byte
  brh : Byte
  sa : Byte
  ifg : Byte
  txbuf : Byte
  rxbuf : Byte
  psel : Byte
  deriving DecidableEq, Repr

/-! ## The other agents' moves -/

/-- The five events of a bus agent (R161 to R165). -/
inductive BusEvent where
  | startDone
  | stopDone
  | txReady
  | nack
  | rxByte (b : Byte)
  deriving DecidableEq, Repr

/-- Whose move comes next (R5, R53, R160): the engine's, a bus agent's, the host's, or a power-on reset (R210). -/
inductive Turn where
  /-- The engine takes one step. -/
  | engine
  /-- The bus agent of a unit takes an event (R160). -/
  | bus (u : UnitId) (e : BusEvent)
  /-- The host submits a frame to the command port (R14, R80). -/
  | submit (bytes : List Byte)
  /-- The host writes a byte of host memory (R28). -/
  | hostWrite (a : Half) (b : Byte)
  /-- Power-on reset (R210). -/
  | powerOn
  deriving DecidableEq, Repr

/-! ## The state -/

/-- The whole state (R10). `ret` and `turns` are the model's own (log entries 8 and 5); all else is the spec's. -/
structure State where
  /-- The engine's working registers (R11). -/
  w : Working
  /-- The state register `st`, with the place inside the state's rule (R12). -/
  st : EngineState
  /-- InterfaceState, `ACTIVE[0..1]` (R13). -/
  active : PerUnit Bool
  /-- `BUSY` (R14). -/
  busy : Bool
  /-- `RESULT` (R14). -/
  result : Byte
  /-- The two unit register files (R16). -/
  units : PerUnit UnitRegs
  /-- Host memory (R28): the bytes that differ from `Memory.unlisted`, by rising address. -/
  mem : List Host.Cell
  /-- The value the engine's last read access returned (R100): `r`, `n`, `p` and `b` of the rules' pseudocode. -/
  ret : Byte
  /-- The moves still to come, the first one first; when there is none the engine moves (R53, R160). -/
  turns : List Turn
  deriving DecidableEq, Repr

/-! ## How a step can stop -/

/-- Faults: none. The hardware has no trap mechanism (R180, R189, R194), and every 16-bit address is a byte of host
memory (R28), so no step of this model faults. Safe: nothing is stopped that the hardware would carry on. -/
inductive Fault where
  deriving DecidableEq, Repr

/-- Refusals: launches the spec leaves unsaid. -/
inductive Refusal where
  /-- An instruction with no meaning yet, raised by `exec`'s arm for it; no arm does. Safe: the run stops. -/
  | notModelled (mnemonic : String)
  /-- A submitted frame that is no command, raised by the submit turn of `step` (R66, R196: the model refuses the
  frame; no code is produced and no state changes). Safe: the run stops. -/
  | frameRejected (why : Reject)
  /-- A command submitted while `BUSY` = 1, raised by the four commands' meanings (R198, V3). Safe: the run stops. -/
  | submitWhileBusy
  /-- A write of host memory by the host while `BUSY` = 1, raised by the host-write turn of `step` (R28, R41, D2).
  Safe: the run stops. -/
  | hostWriteWhileBusy
  deriving DecidableEq, Repr

/-! ## Reset (R210) -/

/-- A unit's registers after reset: `CTL0`, `CTL1`, `IFG`, `PSEL` as R210 says, the others 0 (log entry 2). -/
def UnitRegs.reset : UnitRegs :=
  { ctl0 := 0x00, ctl1 := 0x01, brl := 0, brh := 0, sa := 0, ifg := 0x00, txbuf := 0, rxbuf := 0, psel := 0x00 }

/-- The working registers after reset: the spec gives none (R11), all 0 here (log entry 3). -/
def Working.reset : Working :=
  { d := { interfaceId := 0, direction := 0, slaveAddress := 0, outPtr := 0, outLen := 0, respLen := 0, respPtr := 0,
           valid := 0 },
    c := { interfaceId := 0, clockSource := 0, baudDivider := 0, valid := 0 },
    u := .primary, txIndex := 0, rxIndex := 0, nackCount := 0, stopIssued := false }

/-- The machine right after power-on reset (R210). Host memory lists nothing (log entry 4), `RESULT` is 0 (log entry
1), and no move but the engine's is to come (log entry 13). -/
def State.reset : State :=
  { w := Working.reset, st := .idle, active := { primary := false, secondary := false }, busy := false, result := 0,
    units := { primary := UnitRegs.reset, secondary := UnitRegs.reset }, mem := [], ret := 0, turns := [] }

end Sys2Proof.Machine
end

