-- ==== Sys2Proof/Machine/Flags.lean ====
section
/-! DEFINITION. The fields and flags of the unit registers (R15, R17 to R26), the writable masks (R17), and the side
effects an access has on flags (R51). -/

namespace Sys2Proof.Machine

/-! ## Fields of `CTL0`, `CTL1`, `IFG`, `PSEL` and the divisor -/

/-- `CTL0.MST`, bit 3: master mode (R18). -/
def UnitRegs.mst (r : UnitRegs) : Bool := r.ctl0.getLsbD 3

/-- `CTL0.MODE`, bits 2:1: 3 is I2C (R18). -/
def UnitRegs.mode (r : UnitRegs) : BitVec 2 := r.ctl0.extractLsb' 1 2

/-- `CTL0.SYNC`, bit 0: synchronous mode (R18). -/
def UnitRegs.sync (r : UnitRegs) : Bool := r.ctl0.getLsbD 0

/-- A unit is configured when `CTL0` = `0x0F` (R18). -/
def UnitRegs.configured (r : UnitRegs) : Bool := r.ctl0 == 0x0F

/-- `CTL1.SSEL`, bits 7:6: the clock source (R19). -/
def UnitRegs.ssel (r : UnitRegs) : BitVec 2 := r.ctl1.extractLsb' 6 2

/-- `CTL1.TR`, bit 4: 1 is transmit (R19). -/
def UnitRegs.tr (r : UnitRegs) : Bool := r.ctl1.getLsbD 4

/-- `CTL1.TXSTP`, bit 2: a STOP is pending (R19). -/
def UnitRegs.txstp (r : UnitRegs) : Bool := r.ctl1.getLsbD 2

/-- `CTL1.TXSTT`, bit 1: a START is pending (R19). -/
def UnitRegs.txstt (r : UnitRegs) : Bool := r.ctl1.getLsbD 1

/-- `CTL1.SWRST`, bit 0: the unit is held in reset (R19). -/
def UnitRegs.swrst (r : UnitRegs) : Bool := r.ctl1.getLsbD 0

/-- `IFG.NACK`, bit 2 (R23). -/
def UnitRegs.nack (r : UnitRegs) : Bool := r.ifg.getLsbD 2

/-- `IFG.TXRDY`, bit 1 (R23). -/
def UnitRegs.txrdy (r : UnitRegs) : Bool := r.ifg.getLsbD 1

/-- `IFG.RXRDY`, bit 0 (R23). -/
def UnitRegs.rxrdy (r : UnitRegs) : Bool := r.ifg.getLsbD 0

/-- `PSEL.SCL`, bit 0: the clock line is routed to the unit (R26). -/
def UnitRegs.scl (r : UnitRegs) : Bool := r.psel.getLsbD 0

/-- `PSEL.SDA`, bit 1: the data line is routed to the unit (R26). -/
def UnitRegs.sda (r : UnitRegs) : Bool := r.psel.getLsbD 1

/-- The 16-bit baud divisor `BRH ++ BRL` (R21). -/
def UnitRegs.divisor (r : UnitRegs) : Half := le16 r.brl r.brh

/-! ## Masks -/

/-- The bit of `IFG.RXRDY`. -/
def rxrdyMask : Byte := 0x01

/-- The bit of `IFG.TXRDY`. -/
def txrdyMask : Byte := 0x02

/-- The bit of `IFG.NACK`. -/
def nackMask : Byte := 0x04

/-- The bit of `CTL1.TXSTT`. -/
def txsttMask : Byte := 0x02

/-- The bit of `CTL1.TXSTP`. -/
def txstpMask : Byte := 0x04

/-- The bits of a register the engine can write; all others ignore its writes (R17). -/
def writableMask : UnitReg → Byte
  | .CTL0 => 0x0F
  | .CTL1 => 0xD7
  | .BRL => 0xFF
  | .BRH => 0xFF
  | .SA => 0xFF
  | .IFG => 0x07
  | .TXBUF => 0xFF
  | .RXBUF => 0x00
  | .PSEL => 0x03

/-- The bits of a register that exist; the others are reserved and read 0 (R17, V11). -/
def existingMask : UnitReg → Byte
  | .RXBUF => 0xFF
  | reg => writableMask reg

/-! ## Setting and clearing flags -/

/-- Set bits of `IFG`. -/
def UnitRegs.setIfg (r : UnitRegs) (m : Byte) : UnitRegs := { r with ifg := r.ifg ||| m }

/-- Clear bits of `IFG`. -/
def UnitRegs.clearIfg (r : UnitRegs) (m : Byte) : UnitRegs := { r with ifg := r.ifg &&& ~~~m }

/-- Clear bits of `CTL1`. -/
def UnitRegs.clearCtl1 (r : UnitRegs) (m : Byte) : UnitRegs := { r with ctl1 := r.ctl1 &&& ~~~m }

/-! ## Side effects of accesses (R51) -/

/-- What an access does to the flags besides its own register: a write of `TXBUF` clears `TXRDY`, a read of `RXBUF`
clears `RXRDY`, a write or set of `CTL1` whose data has bit 1 clears `NACK`; every other access does nothing (R51). -/
def UnitRegs.sideEffect (r : UnitRegs) (kind : AccessKind) (reg : UnitReg) (data : Byte) : UnitRegs :=
  match kind, reg with
  | .WR, .TXBUF => r.clearIfg txrdyMask
  | .RD, .RXBUF => r.clearIfg rxrdyMask
  | .WR, .CTL1 => if data.getLsbD 1 then r.clearIfg nackMask else r
  | .SET, .CTL1 => if data.getLsbD 1 then r.clearIfg nackMask else r
  | _, _ => r

end Sys2Proof.Machine
end

