-- ==== Sys2Proof/Config.lean ====
section
/-! DEFINITION. What is fixed for one machine: the constants the spec names (R2) and the two parameters it leaves
open (R4). The open ones have no body here: nothing in Lean can evaluate them (log entry 9). -/

namespace Sys2Proof

/-- The two retry policies of `NACK_POLICY` (R4, R136): resend from the current index, or restart the message. -/
inductive NackPolicy where
  | resendByte
  | restartMessage
  deriving DecidableEq, Repr, Inhabited

/-- The two parameters the spec leaves open (R4), as one argument of the step relation (R10). -/
structure Params where
  /-- `NACK_POLICY`: no default (R4, D21). -/
  nackPolicy : NackPolicy
  /-- `RX_NACK_CHECK`: default true (R4, D22). -/
  rxNackCheck : Bool := true
  deriving DecidableEq, Repr

/-- `MAX_NACK` = 10 (R2): the number of consecutive NACK observations at which EXECUTE aborts. The literal is
unaudited (U4; log entry 17). -/
def Config.maxNack : Byte := 10

/-- `MAX_ADDR` = 255 (R2): the largest slave address BUILDTXN accepts. The literal is unaudited (U4; log entry 17). -/
def Config.maxAddr : Half := 255

/-- `NACK_POLICY` of this machine: OPEN, no default (R4, D21; log entry 9). -/
opaque Config.nackPolicy : NackPolicy

/-- `RX_NACK_CHECK` of this machine: OPEN (R4, D22; log entry 9). The default the spec names is that of `Params`; a claim
about this machine holds for both values. -/
opaque Config.rxNackCheck : Bool

/-- The open parameters of this machine. -/
def Config.params : Params := { nackPolicy := Config.nackPolicy, rxNackCheck := Config.rxNackCheck }

end Sys2Proof
end

