-- ==== Sys2Proof/Machine/Operands.lean ====
section
/-! DEFINITION. Operands and records: the values of result codes and the validity flag (R68, R69), the layouts of the
Config and Descriptor records in host memory (R44, R45), and the tests a command makes of an operand (R67, R85). -/

namespace Sys2Proof.Machine

/-! ## Enumeration values -/

/-- The byte of a result code (R69). -/
def ErrorCode.byte : ErrorCode → Byte
  | .noError => 0
  | .notInitialized => 1
  | .badParameters => 2
  | .interfaceNotActive => 3
  | .nackLimitReached => 4
  | .unspecifiedError => 5

/-- The validity flag is set exactly when the byte is `0x01` (R68). -/
def validSet (b : Byte) : Bool := b == 0x01

/-- The null pointer is address `0x0000` (R28, V16). -/
def isNull (p : Half) : Bool := p == 0x0000

/-- A `clockSource` operand is one of the three members 0, 1, 2 (R68). -/
def clockSourceOk (c : Byte) : Bool := c == 0 || c == 1 || c == 2

/-- A `direction` operand is Transmit (0) or Receive (1) (R68). -/
def directionOk (d : Byte) : Bool := d == 0 || d == 1

/-- `direction = Receive`; every rule of EXECUTE tests for this one value (R138, R237). -/
def isReceive (d : Byte) : Bool := d == 1

/-! ## Records (R44, R45) -/

/-- The bytes `StoreConfig` writes, offsets +0 to +5: `valid` is `0x01` and `error` is `0x00` (R44). -/
def configBytes (interfaceId clockSource : Byte) (baudDivider : Half) : List Byte :=
  [interfaceId, clockSource, lowByte baudDivider, highByte baudDivider, 0x01, ErrorCode.noError.byte]

/-- The bytes `StoreDescriptor` writes, offsets +0 to +13: `valid` is `0x01` and `error` is `0x00` (R45). -/
def descriptorBytes (interfaceId direction : Byte) (slaveAddress outPtr outLen respLen respPtr : Half) : List Byte :=
  [interfaceId, direction, lowByte slaveAddress, highByte slaveAddress, lowByte outPtr, highByte outPtr,
   lowByte outLen, highByte outLen, lowByte respLen, highByte respLen, lowByte respPtr, highByte respPtr, 0x01,
   ErrorCode.noError.byte]

/-- Where a Config record's `error` byte stands (R44). -/
def configErrorOffset : Half := 5

/-- Where a Descriptor record's `error` byte stands (R45). -/
def descriptorErrorOffset : Half := 13

/-- How many bytes `LoadConfig` reads, offsets +0 to +4 (R44). -/
def configLoadLength : Nat := 5

/-- How many bytes `LoadDescriptor` reads, offsets +0 to +12 (R45). -/
def descriptorLoadLength : Nat := 13

/-- The Config whose record's first five bytes are `b` (R44). -/
def ConfigRec.ofBytes (b : List Byte) : ConfigRec :=
  { interfaceId := b.getD 0 0, clockSource := b.getD 1 0, baudDivider := le16 (b.getD 2 0) (b.getD 3 0),
    valid := b.getD 4 0 }

/-- The Descriptor whose record's first thirteen bytes are `b` (R45). -/
def Descriptor.ofBytes (b : List Byte) : Descriptor :=
  { interfaceId := b.getD 0 0, direction := b.getD 1 0, slaveAddress := le16 (b.getD 2 0) (b.getD 3 0),
    outPtr := le16 (b.getD 4 0) (b.getD 5 0), outLen := le16 (b.getD 6 0) (b.getD 7 0),
    respLen := le16 (b.getD 8 0) (b.getD 9 0), respPtr := le16 (b.getD 10 0) (b.getD 11 0), valid := b.getD 12 0 }

/-- One-byte writes of consecutive bytes from `p` on, in ascending order; addresses are modulo 2^16 (R42, R47). -/
def writesAt (p : Half) : List Byte → List (Half × Byte)
  | [] => []
  | b :: rest => (p, b) :: writesAt (p + 1) rest

/-- `StoreConfig` as one-byte writes (R44). -/
def storeConfig (p : Half) (interfaceId clockSource : Byte) (baudDivider : Half) : List (Half × Byte) :=
  writesAt p (configBytes interfaceId clockSource baudDivider)

/-- `StoreConfigError` as one-byte writes (R44). -/
def storeConfigError (p : Half) (e : ErrorCode) : List (Half × Byte) := writesAt (p + configErrorOffset) [e.byte]

/-- `StoreDescriptor` as one-byte writes (R45). -/
def storeDescriptor (p : Half) (interfaceId direction : Byte) (slaveAddress outPtr outLen respLen respPtr : Half) :
    List (Half × Byte) :=
  writesAt p (descriptorBytes interfaceId direction slaveAddress outPtr outLen respLen respPtr)

/-- `StoreDescriptorError` as one-byte writes (R45). -/
def storeDescriptorError (p : Half) (e : ErrorCode) : List (Half × Byte) :=
  writesAt (p + descriptorErrorOffset) [e.byte]

/-! ## Addresses the engine forms (R47, R48) -/

/-- The address of the outgoing byte at `w.txIndex`. -/
def txAddr (w : Working) : Half := w.d.outPtr + w.txIndex

/-- The address of the response byte at `w.rxIndex`. -/
def rxAddr (w : Working) : Half := w.d.respPtr + w.rxIndex

end Sys2Proof.Machine
end

