-- ==== Sys2Proof/Machine/Ops.lean ====
section
/-! DEFINITION. The named operations over host memory (R28, R42), the unit registers (R50, R51), and the end of a
command, `raise` (R80, R191): this hardware's one way to report, in place of taking an exception. It saves no state and
there is no return from it (R191, R193). -/

namespace Sys2Proof.Machine

/-! ## Host memory -/

/-- What a byte of host memory that nothing has written reads as: 0. The spec gives no value (R28, X3; log entry 4). -/
def Memory.unlisted : Byte := 0x00

/-- The size of host memory in bytes (R28). -/
def Memory.size : Nat := 65536

/-- The entries rise strictly from `lo` on, lie in host memory, and none equals what an unlisted byte reads as. -/
def Memory.wfFrom : Nat → List Host.Cell → Bool
  | _, [] => true
  | lo, (k, v) :: rest => decide (lo ≤ k) && decide (k < Memory.size) && v != Memory.unlisted && Memory.wfFrom (k + 1) rest

/-- The canonical form of host memory. -/
def Memory.wf (m : List Host.Cell) : Bool := Memory.wfFrom 0 m

/-- The byte at a key. -/
def Memory.readAt : List Host.Cell → Nat → Byte
  | [], _ => Memory.unlisted
  | (k, v) :: rest, a => if k = a then v else Memory.readAt rest a

/-- The entries with the byte at a key replaced, in canonical form: the byte an unlisted address reads as is not kept. -/
def Memory.writeAt : List Host.Cell → Nat → Byte → List Host.Cell
  | [], a, b => if b = Memory.unlisted then [] else [(a, b)]
  | (k, v) :: rest, a, b =>
    if a < k then (if b = Memory.unlisted then (k, v) :: rest else (a, b) :: (k, v) :: rest)
    else if a = k then (if b = Memory.unlisted then rest else (a, b) :: rest)
    else (k, v) :: Memory.writeAt rest a b

/-- `MemRead(a, 1)`: one byte of host memory (00_scope.md §7, R42). -/
def State.memRead (s : State) (a : Half) : Byte := Memory.readAt s.mem a.toNat

/-- `MemWrite(a, 1, b)`: one byte of host memory (00_scope.md §7, R42). -/
def State.memWrite (s : State) (a : Half) (b : Byte) : State := { s with mem := Memory.writeAt s.mem a.toNat b }

/-! ## Unit registers -/

/-- The value of a register by name. -/
def UnitRegs.get (r : UnitRegs) : UnitReg → Byte
  | .CTL0 => r.ctl0
  | .CTL1 => r.ctl1
  | .BRL => r.brl
  | .BRH => r.brh
  | .SA => r.sa
  | .IFG => r.ifg
  | .TXBUF => r.txbuf
  | .RXBUF => r.rxbuf
  | .PSEL => r.psel

/-- The register file with one register replaced. -/
def UnitRegs.put (r : UnitRegs) (reg : UnitReg) (v : Byte) : UnitRegs :=
  match reg with
  | .CTL0 => { r with ctl0 := v }
  | .CTL1 => { r with ctl1 := v }
  | .BRL => { r with brl := v }
  | .BRH => { r with brh := v }
  | .SA => { r with sa := v }
  | .IFG => { r with ifg := v }
  | .TXBUF => { r with txbuf := v }
  | .RXBUF => { r with rxbuf := v }
  | .PSEL => { r with psel := v }

/-- The value an access leaves in its own register (R50), before the side effects. -/
def accessValue (kind : AccessKind) (reg : UnitReg) (old data : Byte) : Byte :=
  match kind with
  | .RD => old
  | .WR => (old &&& ~~~writableMask reg) ||| (data &&& writableMask reg)
  | .SET => old ||| (data &&& writableMask reg)
  | .CLR => old &&& ~~~(data &&& writableMask reg)

/-- A register file after one access (R50, R51). -/
def UnitRegs.access (r : UnitRegs) (kind : AccessKind) (reg : UnitReg) (data : Byte) : UnitRegs :=
  (r.put reg (accessValue kind reg (r.get reg) data)).sideEffect kind reg data

/-- The registers of a unit. -/
def State.regs (s : State) (u : UnitId) : UnitRegs := s.units.get u

/-- Replace the registers of a unit. -/
def State.setRegs (s : State) (u : UnitId) (r : UnitRegs) : State := { s with units := s.units.set u r }

/-- Set `ACTIVE[u]` (R13). -/
def State.setActive (s : State) (u : UnitId) (b : Bool) : State := { s with active := s.active.set u b }

/-- Latch the value a read returned (R100; log entry 8). -/
def State.setRet (s : State) (b : Byte) : State := { s with ret := b }

/-- Set the state register. -/
def State.setSt (s : State) (st : EngineState) : State := { s with st := st }

/-- An access that writes: `WR`, `SET` or `CLR` of one register of one unit, with its side effects (R50, R51). -/
def State.poke (s : State) (kind : AccessKind) (u : UnitId) (reg : UnitReg) (data : Byte) : State :=
  s.setRegs u ((s.regs u).access kind reg data)

/-- `RD(u, REG, m)`: the value read is returned to the engine, and the read side effect happens (R50, R51). -/
def State.peek (s : State) (u : UnitId) (reg : UnitReg) (m : Byte) : State :=
  (s.setRegs u ((s.regs u).access .RD reg m)).setRet ((s.regs u).get reg &&& m)

/-! ## The end of a command -/

/-- `raise Code`: one step that writes `RESULT`, returns `st` to `S_IDLE` and clears `BUSY` (R80, R191). -/
def State.raise (s : State) (code : ErrorCode) : State :=
  { s with result := code.byte, st := .idle, busy := false }

end Sys2Proof.Machine
end

