-- ==== Sys2Proof/Machine/Bus.lean ====
section
/-! DEFINITION. The bus agents (43_bus_agent.md): the five events, their preconditions and effects. -/

namespace Sys2Proof.Machine

/-- An event of a unit's bus agent is enabled: the unit is released and configured (R160), and the event's own
precondition holds (R161 to R165). -/
def BusEvent.enabled (e : BusEvent) (r : UnitRegs) : Bool :=
  !r.swrst && r.configured &&
  match e with
  | .startDone => r.txstt
  | .stopDone => r.txstp
  | .txReady => r.tr && !r.txrdy
  | .nack => !r.nack
  | .rxByte _ => !r.tr && !r.rxrdy

/-- The effect of an event on the unit's registers (R161 to R165). -/
def BusEvent.effect (e : BusEvent) (r : UnitRegs) : UnitRegs :=
  match e with
  | .startDone => r.clearCtl1 txsttMask
  | .stopDone => r.clearCtl1 txstpMask
  | .txReady => r.setIfg txrdyMask
  | .nack => r.setIfg nackMask
  | .rxByte b => { r with rxbuf := b }.setIfg rxrdyMask

/-- A bus agent's turn: an enabled event happens, in one step. An event that is not enabled is no move of the agent
(R160), so nothing happens (log entry 6). -/
def State.busEvent (s : State) (u : UnitId) (e : BusEvent) : State :=
  if e.enabled (s.regs u) then s.setRegs u (e.effect (s.regs u)) else s

end Sys2Proof.Machine
end

