-- ==== Sys2Proof/Machine/Primitives.lean ====
section
/-! DEFINITION. The meanings of the twenty-two primitives (41_unit_primitives.md). Each is one register access and one
step; none fails (R100). -/

namespace Sys2Proof.Machine

/-- What a meaning answers. -/
abbrev Answer := Host.Outcome State Fault Refusal

/-! ## Unit enable and disable -/

/-- DisableUnit (R101): `SET(u, CTL1, 0x01)` and `ACTIVE[u] <- 0`, one step. -/
def execDisableUnit (u : UnitId) (s : State) : Answer := .next ((s.poke .SET u .CTL1 0x01).setActive u false)

/-- EnableUnit (R102): `CLR(u, CTL1, 0x01)` and `ACTIVE[u] <- 1`, one step. -/
def execEnableUnit (u : UnitId) (s : State) : Answer := .next ((s.poke .CLR u .CTL1 0x01).setActive u true)

/-! ## Control-bit writes of ACTIVATE -/

/-- ZeroCtl0 (R103): `WR(u, CTL0, 0x00)`. -/
def execZeroCtl0 (u : UnitId) (s : State) : Answer := .next (s.poke .WR u .CTL0 0x00)

/-- ZeroCtl1 (R104): `WR(u, CTL1, 0x00)`; `ACTIVE[u]` keeps its value. -/
def execZeroCtl1 (u : UnitId) (s : State) : Answer := .next (s.poke .WR u .CTL1 0x00)

/-- SetModes (R105): `SET(u, CTL0, 0x0F)`. -/
def execSetModes (u : UnitId) (s : State) : Answer := .next (s.poke .SET u .CTL0 0x0F)

/-- SelectClock (R106): `SET(u, CTL1, c[1:0] << 6)`. -/
def execSelectClock (u : UnitId) (c : Byte) (s : State) : Answer := .next (s.poke .SET u .CTL1 ((c &&& 0x03) <<< 6))

/-- RoutePins (R107): `SET(u, PSEL, 0x03)`. -/
def execRoutePins (u : UnitId) (s : State) : Answer := .next (s.poke .SET u .PSEL 0x03)

/-! ## Baud divisor and slave address -/

/-- WriteBaudLow (R108): `WR(u, BRL, b)`. -/
def execWriteBaudLow (u : UnitId) (b : Byte) (s : State) : Answer := .next (s.poke .WR u .BRL b)

/-- WriteBaudHigh (R109): `WR(u, BRH, b)`. -/
def execWriteBaudHigh (u : UnitId) (b : Byte) (s : State) : Answer := .next (s.poke .WR u .BRH b)

/-- WriteSlaveAddr (R110): `WR(u, SA, a)`. -/
def execWriteSlaveAddr (u : UnitId) (a : Byte) (s : State) : Answer := .next (s.poke .WR u .SA a)

/-! ## Direction, START and STOP -/

/-- SetTR (R111): `SET(u, CTL1, 0x10)`. -/
def execSetTR (u : UnitId) (s : State) : Answer := .next (s.poke .SET u .CTL1 0x10)

/-- ClearTR (R112): `CLR(u, CTL1, 0x10)`. -/
def execClearTR (u : UnitId) (s : State) : Answer := .next (s.poke .CLR u .CTL1 0x10)

/-- AssertStart (R113): `SET(u, CTL1, 0x02)`, which clears `IFG[u].NACK`. -/
def execAssertStart (u : UnitId) (s : State) : Answer := .next (s.poke .SET u .CTL1 0x02)

/-- AssertStop (R114): `SET(u, CTL1, 0x04)`. -/
def execAssertStop (u : UnitId) (s : State) : Answer := .next (s.poke .SET u .CTL1 0x04)

/-! ## Status reads and the flag clear -/

/-- ReadTxRdy (R115): `RD(u, IFG, 0x02)`. -/
def execReadTxRdy (u : UnitId) (s : State) : Answer := .next (s.peek u .IFG 0x02)

/-- ReadRxRdy (R116): `RD(u, IFG, 0x01)`. -/
def execReadRxRdy (u : UnitId) (s : State) : Answer := .next (s.peek u .IFG 0x01)

/-- ReadNack (R117): `RD(u, IFG, 0x04)`. -/
def execReadNack (u : UnitId) (s : State) : Answer := .next (s.peek u .IFG 0x04)

/-- ReadSttPending (R118): `RD(u, CTL1, 0x02)`. -/
def execReadSttPending (u : UnitId) (s : State) : Answer := .next (s.peek u .CTL1 0x02)

/-- ReadStpPending (R119): `RD(u, CTL1, 0x04)`. -/
def execReadStpPending (u : UnitId) (s : State) : Answer := .next (s.peek u .CTL1 0x04)

/-- ClearTxRdy (R120): `CLR(u, IFG, 0x02)`. -/
def execClearTxRdy (u : UnitId) (s : State) : Answer := .next (s.poke .CLR u .IFG 0x02)

/-! ## Data registers -/

/-- WriteTx (R121): `WR(u, TXBUF, b)`, which clears `IFG[u].TXRDY`. -/
def execWriteTx (u : UnitId) (b : Byte) (s : State) : Answer := .next (s.poke .WR u .TXBUF b)

/-- ReadRx (R122): `RD(u, RXBUF, 0xFF)`, which clears `IFG[u].RXRDY`. -/
def execReadRx (u : UnitId) (s : State) : Answer := .next (s.peek u .RXBUF 0xFF)

end Sys2Proof.Machine
end

