-- ==== Sys2Proof/Machine/Commands.lean ====
section
/-! DEFINITION. The meanings of the four commands (40_commands.md): what the engine does when it accepts a frame. A
command accepted with `BUSY` = 0 sets `BUSY` and enters its first state; the command's own rule then runs one atomic
step at a time in Engine.lean until its `raise` (R80, R50; log entries 7 and 15). -/

namespace Sys2Proof.Machine

/-- The acceptance of a command (R80): refused while `BUSY` = 1 (R198, V3), else `BUSY <- 1` and the command's state. -/
def State.accept (s : State) (first : EngineState) : Answer :=
  if s.busy then .refused .submitWhileBusy else .next { s with busy := true, st := first }

/-! ## BUILDCFG -/

/-- The outcome of BUILDCFG's checks (R81): the bytes it will write and the code it will raise. -/
def buildcfgPlan (p : Half) (interfaceId clockSource : Byte) (baudDivider : Half) : EngineState :=
  if isNull p then .build [] .badParameters
  else if (UnitId.ofId interfaceId).isNone then .build (storeConfigError p .badParameters) .badParameters
  else if !clockSourceOk clockSource then .build (storeConfigError p .badParameters) .badParameters
  else .build (storeConfig p interfaceId clockSource baudDivider) .noError

/-- BUILDCFG (R81). -/
def execBuildcfg (cfgPtr : Half) (interfaceId clockSource : Byte) (baudDivider : Half) (s : State) : Answer :=
  s.accept (buildcfgPlan cfgPtr interfaceId clockSource baudDivider)

/-! ## ACTIVATE -/

/-- ACTIVATE (R82): a null pointer is NotInitialized, else the Config is read. -/
def execActivate (cfgPtr : Half) (s : State) : Answer :=
  s.accept (if isNull cfgPtr then .actRaise .notInitialized else .actLoad cfgPtr [])

/-! ## BUILDTXN -/

/-- BUILDTXN's checks 2 to 6, in the order of R83. -/
def buildtxnChecks (interfaceId : Byte) (outPtr address : Half) (direction : Byte) (respLen respPtr : Half) : Bool :=
  if isNull outPtr || isNull respPtr then false
  else if Config.maxAddr < address then false
  else if !directionOk direction then false
  else if (UnitId.ofId interfaceId).isNone then false
  else if isReceive direction && (respLen == 0 || isNull respPtr) then false
  else true

/-- The outcome of BUILDTXN's checks (R83): the bytes it will write and the code it will raise. -/
def buildtxnPlan (p : Half) (interfaceId : Byte) (outPtr outLen address : Half) (direction : Byte)
    (respLen respPtr : Half) : EngineState :=
  if isNull p then .build [] .badParameters
  else if !buildtxnChecks interfaceId outPtr address direction respLen respPtr then
    .build (storeDescriptorError p .badParameters) .badParameters
  else .build (storeDescriptor p interfaceId direction address outPtr outLen respLen respPtr) .noError

/-- BUILDTXN (R83). -/
def execBuildtxn (txdPtr : Half) (interfaceId : Byte) (outPtr outLen address : Half) (direction : Byte)
    (respLen respPtr : Half) (s : State) : Answer :=
  s.accept (buildtxnPlan txdPtr interfaceId outPtr outLen address direction respLen respPtr)

/-! ## EXECUTE -/

/-- EXECUTE (R84): a null pointer is NotInitialized, else the Descriptor is read. -/
def execExecute (txdPtr : Half) (s : State) : Answer :=
  s.accept (if isNull txdPtr then .entryRaise .notInitialized else .entryLoad txdPtr [])

end Sys2Proof.Machine
end

