-- ==== Sys2Proof/Machine/Dispatch.lean ====
section
/-! DEFINITION. Which meaning each instruction has: one arm per constructor of `Instr`. -/

namespace Sys2Proof.Machine

def exec (i : Instr) (s : State) : Host.Outcome State Fault Refusal :=
  match i with
  | .buildcfg p id clk div => Sys2Proof.Machine.execBuildcfg p id clk div s
  | .activate p => Sys2Proof.Machine.execActivate p s
  | .buildtxn p id outPtr outLen addr dir respLen respPtr => Sys2Proof.Machine.execBuildtxn p id outPtr outLen addr dir respLen respPtr s
  | .execute p => Sys2Proof.Machine.execExecute p s
  | .disableUnit u => Sys2Proof.Machine.execDisableUnit u s
  | .enableUnit u => Sys2Proof.Machine.execEnableUnit u s
  | .zeroCtl0 u => Sys2Proof.Machine.execZeroCtl0 u s
  | .zeroCtl1 u => Sys2Proof.Machine.execZeroCtl1 u s
  | .setModes u => Sys2Proof.Machine.execSetModes u s
  | .selectClock u c => Sys2Proof.Machine.execSelectClock u c s
  | .routePins u => Sys2Proof.Machine.execRoutePins u s
  | .writeBaudLow u b => Sys2Proof.Machine.execWriteBaudLow u b s
  | .writeBaudHigh u b => Sys2Proof.Machine.execWriteBaudHigh u b s
  | .writeSlaveAddr u a => Sys2Proof.Machine.execWriteSlaveAddr u a s
  | .setTR u => Sys2Proof.Machine.execSetTR u s
  | .clearTR u => Sys2Proof.Machine.execClearTR u s
  | .assertStart u => Sys2Proof.Machine.execAssertStart u s
  | .assertStop u => Sys2Proof.Machine.execAssertStop u s
  | .readTxRdy u => Sys2Proof.Machine.execReadTxRdy u s
  | .readRxRdy u => Sys2Proof.Machine.execReadRxRdy u s
  | .readNack u => Sys2Proof.Machine.execReadNack u s
  | .readSttPending u => Sys2Proof.Machine.execReadSttPending u s
  | .readStpPending u => Sys2Proof.Machine.execReadStpPending u s
  | .clearTxRdy u => Sys2Proof.Machine.execClearTxRdy u s
  | .writeTx u b => Sys2Proof.Machine.execWriteTx u b s
  | .readRx u => Sys2Proof.Machine.execReadRx u s

end Sys2Proof.Machine
end

