-- ==== Sys2Proof/Machine/Engine.lean ====
section
/-! DEFINITION. The engine: how a command runs after it is accepted (40_commands.md, 42_engine_fsm.md). One step of the
engine is one register access, one access of one byte of host memory, or one `raise` (R50, R191). `issue` says which
register access comes next, `advance` what the engine makes of it, `internal` is a step that is no register access. -/

namespace Sys2Proof.Machine

/-! ## Which register access comes next -/

/-- The access of each of ACTIVATE's ten steps (R82). -/
def ActStep.instr (k : ActStep) (w : Working) : Instr :=
  match k with
  | .hold => .disableUnit w.u
  | .zero0 => .zeroCtl0 w.u
  | .zero1 => .zeroCtl1 w.u
  | .holdAgain => .disableUnit w.u
  | .modes => .setModes w.u
  | .clock => .selectClock w.u (w.c.clockSource &&& 0x03)
  | .pins => .routePins w.u
  | .baudLow => .writeBaudLow w.u (lowByte w.c.baudDivider)
  | .baudHigh => .writeBaudHigh w.u (highByte w.c.baudDivider)
  | .release => .enableUnit w.u

/-- The step of ACTIVATE after the given one (R82). -/
def ActStep.next : ActStep → EngineState
  | .hold => .act .zero0
  | .zero0 => .act .zero1
  | .zero1 => .act .holdAgain
  | .holdAgain => .act .modes
  | .modes => .act .clock
  | .clock => .act .pins
  | .pins => .act .baudLow
  | .baudLow => .act .baudHigh
  | .baudHigh => .act .release
  | .release => .actRaise .noError

/-- The primitive the engine issues next, if its next step is a register access (R82, R131 to R145). The abort's
AssertStop (R137) is issued whether or not S_WAIT_STT has issued one (R139): a single-byte receive that aborts in S_RX
issues two, where the derived R149 says exactly one (DESIGN CHOICE, log entry 24). -/
def State.issue (s : State) : Option Instr :=
  match s.st with
  | .startAddr => some (.writeSlaveAddr s.w.u (lowByte s.w.d.slaveAddress))
  | .startTr => some (.setTR s.w.u)
  | .startStt => some (.assertStart s.w.u)
  | .txPoll => some (.readTxRdy s.w.u)
  | .txWrite => some (.writeTx s.w.u s.ret)
  | .txClear => some (.clearTxRdy s.w.u)
  | .txNack => some (.readNack s.w.u)
  | .txRestart => some (.assertStart s.w.u)
  | .txStop => some (.assertStop s.w.u)
  | .txDisable => some (.disableUnit s.w.u)
  | .prepTr => some (.clearTR s.w.u)
  | .prepClear => some (.clearTxRdy s.w.u)
  | .prepStt => some (.assertStart s.w.u)
  | .sttPoll => some (.readSttPending s.w.u)
  | .sttStop => some (.assertStop s.w.u)
  | .rxPoll => some (.readRxRdy s.w.u)
  | .rxRead => some (.readRx s.w.u)
  | .rxNack => some (.readNack s.w.u)
  | .rxRestart => some (.assertStart s.w.u)
  | .rxStop => some (.assertStop s.w.u)
  | .rxDisable => some (.disableUnit s.w.u)
  | .stop => if s.w.stopIssued then none else some (.assertStop s.w.u)
  | .stpPoll => some (.readStpPending s.w.u)
  | .act k => some (k.instr s.w)
  | .idle | .entryLoad _ _ | .entryRaise _ | .txFetch | .txRaise | .rxStore | .rxRaise => none
  | .stpRaise | .actLoad _ _ | .actRaise _ | .build _ _ => none

/-! ## Where EXECUTE goes -/

/-- Where the transmit phase, or S_START without one, leads: S_PREP_RX for Receive, else S_STOP (R131, R132). -/
def afterTransmit (w : Working) : EngineState := if isReceive w.d.direction then .prepTr else .stop

/-- The loop condition of S_RX: another iteration, or S_STOP (R140). -/
def rxLoop (w : Working) : EngineState := if w.rxIndex < w.d.respLen then .rxPoll else .stop

/-- S_START after the slave address is written (R131). -/
def State.afterAddr (s : State) : State :=
  s.setSt (if 0 < s.w.d.outLen then .startTr else afterTransmit s.w)

/-- S_TX after a byte is written (R133): the count is zeroed, the index advances, and after the last byte the flag is
cleared. -/
def State.afterWrite (s : State) : State :=
  { s with w := { s.w with nackCount := 0, txIndex := s.w.txIndex + 1 },
           st := if s.w.txIndex + 1 = s.w.d.outLen then .txClear else .txPoll }

/-- S_TX after ReadNack (R134, R135, R136): nothing if it read 0; else count, rewind under `RestartMessage`, and abort
at `MAX_NACK` or re-START. -/
def State.afterTxNack (s : State) (p : Params) : State :=
  if s.ret = 0 then s.setSt .txPoll
  else
    { s with w := { s.w with nackCount := s.w.nackCount + 1,
                             txIndex := match p.nackPolicy with
                               | .resendByte => s.w.txIndex
                               | .restartMessage => 0 },
             st := if Config.maxNack ≤ s.w.nackCount + 1 then .txStop else .txRestart }

/-- S_RX after ReadNack (R142, R143): nothing if it read 0; else count, and abort at `MAX_NACK` or re-START. The abort
does not look at `w.stopIssued` (log entry 24). -/
def State.afterRxNack (s : State) : State :=
  if s.ret = 0 then s.setSt .rxPoll
  else
    { s with w := { s.w with nackCount := s.w.nackCount + 1 },
             st := if Config.maxNack ≤ s.w.nackCount + 1 then .rxStop else .rxRestart }

/-- S_WAIT_STT after the STOP is asserted (R139). -/
def State.afterEarlyStop (s : State) : State :=
  { s with w := { s.w with stopIssued := true }, st := rxLoop s.w }

/-- What the engine does in the step of a register access after the access itself: it takes the value read, updates
its working registers and goes to the next place of the rule (R82, R131 to R145). -/
def State.advance (s : State) (p : Params) : State :=
  match s.st with
  | .startAddr => s.afterAddr
  | .startTr => s.setSt .startStt
  | .startStt => s.setSt .txPoll
  | .txPoll => s.setSt (if s.ret = 0 then .txNack else .txFetch)
  | .txWrite => s.afterWrite
  | .txClear => s.setSt (afterTransmit s.w)
  | .txNack => s.afterTxNack p
  | .txRestart => s.setSt .txPoll
  | .txStop => s.setSt .txDisable
  | .txDisable => s.setSt .txRaise
  | .prepTr => s.setSt .prepClear
  | .prepClear => s.setSt .prepStt
  | .prepStt => s.setSt (if s.w.d.respLen = 1 then .sttPoll else rxLoop s.w)
  | .sttPoll => s.setSt (if s.ret = 0 then .sttStop else .sttPoll)
  | .sttStop => s.afterEarlyStop
  | .rxPoll => s.setSt (if s.ret = 0 then (if p.rxNackCheck then .rxNack else .rxPoll) else .rxRead)
  | .rxRead => s.setSt .rxStore
  | .rxNack => s.afterRxNack
  | .rxRestart => s.setSt .rxPoll
  | .rxStop => s.setSt .rxDisable
  | .rxDisable => s.setSt .rxRaise
  | .stop => s.setSt .stpPoll
  | .stpPoll => s.setSt (if s.ret = 0 then .stpRaise else .stpPoll)
  | .act k => s.setSt k.next
  | .idle | .entryLoad _ _ | .entryRaise _ | .txFetch | .txRaise | .rxStore | .rxRaise => s
  | .stpRaise | .actLoad _ _ | .actRaise _ | .build _ _ => s

/-! ## Steps that are no register access -/

/-- The bytes of a record read so far, with the next one (R44, R45): `ptr + k`, modulo 2^16 (R47). -/
def State.loadNext (s : State) (ptr : Half) (got : List Byte) : List Byte :=
  got ++ [s.memRead (ptr + BitVec.ofNat 16 got.length)]

/-- ACTIVATE with the Config latched: its checks, then the first access (R82). -/
def State.activateChecks (s : State) (c : ConfigRec) : State :=
  let s := { s with w := { s.w with c := c } }
  if !validSet c.valid then s.setSt (.actRaise .notInitialized)
  else
    match UnitId.ofId c.interfaceId with
    | none => s.setSt (.actRaise .unspecifiedError)
    | some u => { s with w := { s.w with u := u }, st := .act .hold }

/-- EXECUTE with the Descriptor latched: its checks in the order of R84, then S_START with the working registers at 0. -/
def State.executeChecks (s : State) (d : Descriptor) : State :=
  let s := { s with w := { s.w with d := d } }
  if !validSet d.valid then s.setSt (.entryRaise .notInitialized)
  else
    match UnitId.ofId d.interfaceId with
    | none => s.setSt (.entryRaise .unspecifiedError)
    | some u =>
      let s := { s with w := { s.w with u := u } }
      if !s.active.get u then s.setSt (.entryRaise .interfaceNotActive)
      else
        { s with w := { s.w with txIndex := 0, rxIndex := 0, nackCount := 0, stopIssued := false }, st := .startAddr }

/-- One byte of `LoadConfig`; after the fifth the Config is latched (R44, R82). -/
def State.loadConfig (s : State) (ptr : Half) (got : List Byte) : State :=
  let b := s.loadNext ptr got
  if b.length < configLoadLength then s.setSt (.actLoad ptr b) else s.activateChecks (ConfigRec.ofBytes b)

/-- One byte of `LoadDescriptor`; after the thirteenth the Descriptor is latched (R45, R84). -/
def State.loadDescriptor (s : State) (ptr : Half) (got : List Byte) : State :=
  let b := s.loadNext ptr got
  if b.length < descriptorLoadLength then s.setSt (.entryLoad ptr b) else s.executeChecks (Descriptor.ofBytes b)

/-- The outgoing byte is read from host memory (R133, R48). -/
def State.fetchByte (s : State) : State := (s.setRet (s.memRead (txAddr s.w))).setSt .txWrite

/-- The received byte is written to host memory and the index advances (R141, R48). -/
def State.storeByte (s : State) : State :=
  let w := { s.w with rxIndex := s.w.rxIndex + 1 }
  { s.memWrite (rxAddr s.w) s.ret with w := w, st := rxLoop w }

/-- One byte of a build command's record, or its `raise` when all are written (R81, R83). -/
def State.buildStep (s : State) (writes : List (Half × Byte)) (code : ErrorCode) : State :=
  match writes with
  | [] => s.raise code
  | (a, b) :: rest => (s.memWrite a b).setSt (.build rest code)

/-- A step of the engine that is no register access: a byte of host memory, a `raise`, or nothing in S_IDLE (R12). -/
def State.internal (s : State) : State :=
  match s.st with
  | .entryLoad ptr got => s.loadDescriptor ptr got
  | .entryRaise code => s.raise code
  | .txFetch => s.fetchByte
  | .txRaise => s.raise .nackLimitReached
  | .rxStore => s.storeByte
  | .rxRaise => s.raise .nackLimitReached
  | .stop => s.raise .noError
  | .stpRaise => s.raise .noError
  | .actLoad ptr got => s.loadConfig ptr got
  | .actRaise code => s.raise code
  | .build writes code => s.buildStep writes code
  | .idle | .startAddr | .startTr | .startStt | .txPoll | .txWrite | .txClear | .txNack | .txRestart => s
  | .txStop | .txDisable | .prepTr | .prepClear | .prepStt | .sttPoll | .sttStop | .rxPoll | .rxRead => s
  | .rxNack | .rxRestart | .rxStop | .rxDisable | .stpPoll | .act _ => s

/-! ## Placing an instruction where the next step takes it (log entry 13) -/

/-- The host is about to submit a frame to an idle machine. -/
def State.placeFrame (s : State) (bytes : List Byte) : State :=
  { s with busy := false, st := .idle, turns := .submit bytes :: s.turns }

/-- The engine is in a command, at the given place of its rule, with the given working registers. -/
def State.placeEngine (s : State) (st : EngineState) (w : Working) : State :=
  { s with busy := true, st := st, w := w, turns := .engine :: s.turns }

/-- The engine is at a place of a command's rule whose next access is the given primitive; a command is placed as a
frame. -/
def State.placeInstr (s : State) (i : Instr) : State :=
  match i with
  | .buildcfg _ _ _ _ | .activate _ | .buildtxn _ _ _ _ _ _ _ _ | .execute _ => s.placeFrame (i.frame.getD [])
  | .disableUnit u => s.placeEngine (.act .hold) { s.w with u := u }
  | .enableUnit u => s.placeEngine (.act .release) { s.w with u := u }
  | .zeroCtl0 u => s.placeEngine (.act .zero0) { s.w with u := u }
  | .zeroCtl1 u => s.placeEngine (.act .zero1) { s.w with u := u }
  | .setModes u => s.placeEngine (.act .modes) { s.w with u := u }
  | .selectClock u c => s.placeEngine (.act .clock) { s.w with u := u, c := { s.w.c with clockSource := c } }
  | .routePins u => s.placeEngine (.act .pins) { s.w with u := u }
  | .writeBaudLow u b =>
    s.placeEngine (.act .baudLow)
      { s.w with u := u, c := { s.w.c with baudDivider := le16 b (highByte s.w.c.baudDivider) } }
  | .writeBaudHigh u b =>
    s.placeEngine (.act .baudHigh)
      { s.w with u := u, c := { s.w.c with baudDivider := le16 (lowByte s.w.c.baudDivider) b } }
  | .writeSlaveAddr u a =>
    s.placeEngine .startAddr { s.w with u := u, d := { s.w.d with slaveAddress := le16 a 0 } }
  | .setTR u => s.placeEngine .startTr { s.w with u := u }
  | .clearTR u => s.placeEngine .prepTr { s.w with u := u }
  | .assertStart u => s.placeEngine .startStt { s.w with u := u }
  | .assertStop u => s.placeEngine .stop { s.w with u := u, stopIssued := false }
  | .readTxRdy u => s.placeEngine .txPoll { s.w with u := u }
  | .readRxRdy u => s.placeEngine .rxPoll { s.w with u := u }
  | .readNack u => s.placeEngine .txNack { s.w with u := u }
  | .readSttPending u => s.placeEngine .sttPoll { s.w with u := u }
  | .readStpPending u => s.placeEngine .stpPoll { s.w with u := u }
  | .clearTxRdy u => s.placeEngine .txClear { s.w with u := u }
  | .writeTx u b => (s.setRet b).placeEngine .txWrite { s.w with u := u }
  | .readRx u => s.placeEngine .rxRead { s.w with u := u }

end Sys2Proof.Machine
end

