-- ==== Sys2Proof/Machine/HostPort.lean ====
section
/-! DEFINITION. The host's side (R14, R28, R40, R41): what the host may do to the machine and what it may see. The host
submits frames through `decodeFrame` and a command's meaning; here are its accesses to host memory, its reads, and
power-on reset (R210). -/

namespace Sys2Proof.Machine

/-- The host writes a byte of host memory: freely while `BUSY` = 0; while `BUSY` = 1 the host is blocked and has no
move, so the launch is refused (R28, R41, D2; log entry 10). -/
def State.hostWrite (s : State) (a : Half) (b : Byte) : Answer :=
  if s.busy then .refused .hostWriteWhileBusy else .next (s.memWrite a b)

/-- What the host reads in host memory; it has no access while `BUSY` = 1 (R28). -/
def State.hostRead (s : State) (a : Half) : Option Byte := if s.busy then none else some (s.memRead a)

/-- What the host reads as `RESULT`; it reads it only when `BUSY` = 0 (R14). -/
def State.hostResult (s : State) : Option Byte := if s.busy then none else some s.result

/-- Power-on reset: every piece of state at its reset value (R210; log entry 12). The moves still to come are not the
machine's and stay. -/
def State.powerOn (s : State) : State := { State.reset with turns := s.turns }

end Sys2Proof.Machine
end

