-- ==== Sys2Proof/Machine/Run.lean ====
section
/-! DEFINITION. The move of each agent as a step, and the step under given values of the open parameters (R5, R53,
R160). -/

namespace Sys2Proof.Machine

/-- One step of the engine: the register access it issues, run by `exec`, and what the engine makes of it; or a step
that is no register access. -/
def engineStep (p : Params) (s : State) : Host.Outcome State Fault Refusal :=
  match s.issue with
  | some i =>
    match exec i s with
    | .next t => .next (t.advance p)
    | .fault f => .fault f
    | .refused r => .refused r
  | none => .next s.internal

/-- The host submits a frame (R80): it is decoded (R73) and the command's meaning run, or it is refused (R66, R196). -/
def submitFrame (bytes : List Byte) (s : State) : Host.Outcome State Fault Refusal :=
  match decodeFrame bytes with
  | .ok i => exec i s
  | .error e => .refused (.frameRejected e)

/-- One step under given values of the open parameters: the first of the moves still to come, or the engine's move if
there is none (log entry 5). -/
def stepWith (p : Params) (s : State) : Host.Outcome State Fault Refusal :=
  match s.turns with
  | [] => engineStep p s
  | .engine :: rest => engineStep p { s with turns := rest }
  | .bus u e :: rest => .next ({ s with turns := rest }.busEvent u e)
  | .submit bytes :: rest => submitFrame bytes { s with turns := rest }
  | .hostWrite a b :: rest => { s with turns := rest }.hostWrite a b
  | .powerOn :: rest => .next { s with turns := rest }.powerOn

/-- The register access that the next step issues, if the engine moves next and its step is one. -/
def State.pending (s : State) : Option Instr :=
  match s.turns with
  | [] => s.issue
  | .engine :: _ => s.issue
  | _ => none

end Sys2Proof.Machine
end

