-- ==== Sys2Proof/Machine/Step.lean ====
section
/-! DEFINITION. One step of the machine: the move of the agent whose turn it is (R5, R53, R160). -/

namespace Sys2Proof.Machine

/-- One step of this machine. -/
def step (s : State) : Host.Outcome State Fault Refusal := stepWith Config.params s

/-- The state with the instruction of bits `w` placed so that the very next step runs it (log entry 13). -/
def State.withFetchWord (s : State) (nbits w : Nat) : State :=
  match tableBits nbits w with
  | .frame bytes => s.placeFrame bytes
  | .access word =>
    match decodeAccess word with
    | .ok i => s.placeInstr i
    | .error _ => s

end Sys2Proof.Machine
end

