-- ==== Sys2Proof/Machine/Slave.lean ====
section
/-! DEFINITION. The reference slave (R170, R171): a deterministic bus agent that reacts at once to the engine's
accesses. It is a fixture of the spec, not the hardware (D28): `step` does not use it, and `stepSlaved` runs the machine
with one at each unit. -/

namespace Sys2Proof.Machine

/-- A reference slave: its three parameters, its four counters, and what the vectors compare (R170). The parameters are
any predicates; a slave is no part of `State`. -/
structure RefSlave where
  /-- `addrAck(k)`: whether the address after the `k`-th START request is acknowledged (`k` = 1, 2, ...). -/
  addrAck : Nat → Bool
  /-- `dataAck(j)`: whether the `j`-th byte written, counted over the slave's life, is acknowledged (`j` = 1, 2, ...). Its
  second argument counts the bytes written since the last START: R171's variant slave looks at that one; a slave of R170
  ignores it. -/
  dataAck : Nat → Nat → Bool
  rx : List Byte
  /-- AssertStart accesses seen. -/
  starts : Nat
  /-- Bytes written to `TXBUF`, over the slave's life. -/
  nbytes : Nat
  /-- Bytes written to `TXBUF` since the last START. -/
  since : Nat
  /-- The next index into `rx`. -/
  ri : Nat
  stopped : Bool
  /-- The bytes written, in order. -/
  log : List Byte
  /-- AssertStop accesses seen. -/
  stops : Nat

/-- A slave at its creation (R170). -/
def RefSlave.new (addrAck : Nat → Bool) (dataAck : Nat → Nat → Bool) (rx : List Byte) : RefSlave :=
  { addrAck := addrAck, dataAck := dataAck, rx := rx, starts := 0, nbytes := 0, since := 0, ri := 0, stopped := true,
    log := [], stops := 0 }

/-- `AckAll(rx)` (R171). -/
def RefSlave.ackAll (rx : List Byte) : RefSlave := .new (fun _ => true) (fun _ _ => true) rx

/-- `NackAll` (R171): `addrAck` always false. R171 gives no `dataAck` and no `rx`: always true and empty here (DESIGN
CHOICE, log entry 20); with a stale `TXRDY` (R229) such a slave acknowledges a written byte. -/
def RefSlave.nackAll : RefSlave := .new (fun _ => false) (fun _ _ => true) []

/-- `NackAddrFirst(n, rx)` (R171). R171 gives no `dataAck`: always true here (DESIGN CHOICE, log entry 20). -/
def RefSlave.nackAddrFirst (n : Nat) (rx : List Byte) : RefSlave := .new (fun k => decide (n < k)) (fun _ _ => true) rx

/-- `NackDataOnce(j)` (R171). R171 gives no `rx`: empty here (DESIGN CHOICE, log entry 20). -/
def RefSlave.nackDataOnce (j : Nat) : RefSlave := .new (fun _ => true) (fun k _ => k != j) []

/-- `NackSecondAfterStart` (R171). R171 gives no `addrAck` and no `rx`: always true and empty here (DESIGN CHOICE, log
entry 20). -/
def RefSlave.nackSecondAfterStart : RefSlave := .new (fun _ => true) (fun _ since => since != 2) []

/-- `Deliver` (R170): the next byte of `rx` arrives if there is one and its event is enabled. -/
def RefSlave.deliver (sl : RefSlave) (u : UnitId) (s : State) : RefSlave × State :=
  match sl.rx[sl.ri]? with
  | none => (sl, s)
  | some b =>
    if (BusEvent.rxByte b).enabled (s.regs u) then ({ sl with ri := sl.ri + 1 }, s.busEvent u (.rxByte b)) else (sl, s)

/-- The reaction to AssertStart (R170). -/
def RefSlave.onStart (sl : RefSlave) (u : UnitId) (s : State) : RefSlave × State :=
  let sl := { sl with starts := sl.starts + 1, since := 0, stopped := false }
  let s := s.busEvent u .startDone
  if sl.addrAck sl.starts then
    (if (s.regs u).tr then (sl, s.busEvent u .txReady) else sl.deliver u s)
  else (sl, s.busEvent u .nack)

/-- The reaction to WriteTx (R170). -/
def RefSlave.onWrite (sl : RefSlave) (u : UnitId) (b : Byte) (s : State) : RefSlave × State :=
  let sl := { sl with nbytes := sl.nbytes + 1, since := sl.since + 1, log := sl.log ++ [b] }
  (sl, s.busEvent u (if sl.dataAck sl.nbytes sl.since then .txReady else .nack))

/-- The reaction of a unit's slave to a register access of that unit (R170). -/
def RefSlave.react (sl : RefSlave) (u : UnitId) (i : Instr) (s : State) : RefSlave × State :=
  match i with
  | .assertStart _ => sl.onStart u s
  | .writeTx _ b => sl.onWrite u b s
  | .readRx _ => if sl.stopped then (sl, s) else sl.deliver u s
  | .assertStop _ => ({ sl with stopped := true, stops := sl.stops + 1 }, s.busEvent u .stopDone)
  | .buildcfg _ _ _ _ | .activate _ | .buildtxn _ _ _ _ _ _ _ _ | .execute _ => (sl, s)
  | .disableUnit _ | .enableUnit _ | .zeroCtl0 _ | .zeroCtl1 _ | .setModes _ | .selectClock _ _ => (sl, s)
  | .routePins _ | .writeBaudLow _ _ | .writeBaudHigh _ _ | .writeSlaveAddr _ _ | .setTR _ | .clearTR _ => (sl, s)
  | .readTxRdy _ | .readRxRdy _ | .readNack _ | .readSttPending _ | .readStpPending _ | .clearTxRdy _ => (sl, s)

/-- The machine with a reference slave at each unit. -/
structure Slaved where
  slaves : PerUnit RefSlave
  machine : State

/-- The machine after a turn of a bus agent, if that is the next move. Each unit's bus agent is its slave here, and no
event of a slave falls outside its reactions (R170): the turn stands for no move, as in log entry 6. -/
def State.skipBusTurn (s : State) : Option State :=
  match s.turns with
  | .bus _ _ :: rest => some { s with turns := rest }
  | [] | .engine :: _ | .submit _ :: _ | .hostWrite _ _ :: _ | .powerOn :: _ => none

/-- One step of the machine under any move but a bus agent's and, after a register access, the reaction of the accessed
unit's slave. -/
def stepUnskipped (p : Params) (x : Slaved) : Host.Outcome Slaved Fault Refusal :=
  match stepWith p x.machine with
  | .next t =>
    match x.machine.pending with
    | none => .next { x with machine := t }
    | some i =>
      match i.access with
      | none => .next { x with machine := t }
      | some a =>
        let r := (x.slaves.get a.unit).react a.unit i t
        .next { slaves := x.slaves.set a.unit r.1, machine := r.2 }
  | .fault f => .fault f
  | .refused r => .refused r

/-- One step of the machine with its slaves (R170). -/
def stepSlaved (p : Params) (x : Slaved) : Host.Outcome Slaved Fault Refusal :=
  match x.machine.skipBusTurn with
  | some s => .next { x with machine := s }
  | none => stepUnskipped p x

/-- `k` steps of the machine with its slaves. -/
def runSlaved (p : Params) : Nat → Slaved → Host.Outcome Slaved Fault Refusal
  | 0, x => .next x
  | k + 1, x =>
    match stepSlaved p x with
    | .next y => runSlaved p k y
    | .fault f => .fault f
    | .refused r => .refused r

end Sys2Proof.Machine
end

