-- ==== Sys2Proof/Safety.lean ====
section
/-! DEFINITION. What the claims speak of: runs and their traces of register accesses (95_test_vectors.md §0), and the
invariants of the machine. The model has no faults, so a run is safe as long as no launch is refused. -/

namespace Sys2Proof.Machine

/-! ## Runs and traces -/

/-- `k` steps under given values of the open parameters. -/
def runWith (p : Params) : Nat → State → Host.Outcome State Fault Refusal
  | 0, s => .next s
  | k + 1, s =>
    match stepWith p s with
    | .next t => runWith p k t
    | .fault f => .fault f
    | .refused r => .refused r

/-- The register accesses of `k` steps in order, each with the value a read returned: the traces of
95_test_vectors.md. -/
def traceWith (p : Params) : Nat → State → List (Instr × Byte)
  | 0, _ => []
  | k + 1, s =>
    match stepWith p s with
    | .next t =>
      match s.pending with
      | some i => (i, t.ret) :: traceWith p k t
      | none => traceWith p k t
    | .fault _ => []
    | .refused _ => []

/-- The engine and the bus agents are the only ones with moves to come: the host is blocked and there is no reset. -/
def Turn.quiet : Turn → Bool
  | .engine => true
  | .bus _ _ => true
  | .submit _ => false
  | .hostWrite _ _ => false
  | .powerOn => false

/-- No host move and no reset is to come. -/
def State.quiet (s : State) : Bool := s.turns.all Turn.quiet

/-- Whether an access of a trace is WriteTx. -/
def isWriteTx (x : Instr × Byte) : Bool := match x.1 with | .writeTx _ _ => true | _ => false

/-- The byte of a WriteTx of a trace. -/
def writtenByte (x : Instr × Byte) : Option Byte := match x.1 with | .writeTx _ b => some b | _ => none

/-- The byte a ReadRx of a trace returned. -/
def receivedByte (x : Instr × Byte) : Option Byte := match x.1 with | .readRx _ => some x.2 | _ => none

/-- Whether an access of a trace is a ReadNack that observed a NACK. -/
def isNackSeen (x : Instr × Byte) : Bool := match x.1 with | .readNack _ => x.2 != 0 | _ => false

/-- Whether an access of a trace is AssertStart. -/
def isAssertStart (x : Instr × Byte) : Bool := match x.1 with | .assertStart _ => true | _ => false

/-- Whether an access of a trace is AssertStop. -/
def isAssertStop (x : Instr × Byte) : Bool := match x.1 with | .assertStop _ => true | _ => false

/-- Whether an access of a trace is a ReadSttPending that returned 0, which ends the loop of S_WAIT_STT (R139). -/
def isSttDone (x : Instr × Byte) : Bool := match x.1 with | .readSttPending _ => x.2 == 0 | _ => false

/-- Whether an access of a trace is DisableUnit. -/
def isDisableUnit (x : Instr × Byte) : Bool := match x.1 with | .disableUnit _ => true | _ => false

/-- The outgoing message of a Descriptor in host memory: byte `k` is at `outPtr + k` (R43). -/
def State.message (s : State) : List Byte :=
  (List.range s.w.d.outLen.toNat).map fun k => s.memRead (s.w.d.outPtr + BitVec.ofNat 16 k)

/-- The Config whose record stands at `p` in host memory (R44). -/
def State.configAt (s : State) (p : Half) : ConfigRec :=
  { interfaceId := s.memRead p, clockSource := s.memRead (p + 1), baudDivider := s.memRead (p + 3) ++ s.memRead (p + 2),
    valid := s.memRead (p + 4) }

/-- The Descriptor whose record stands at `p` in host memory (R45). -/
def State.descriptorAt (s : State) (p : Half) : Descriptor :=
  { interfaceId := s.memRead p, direction := s.memRead (p + 1),
    slaveAddress := s.memRead (p + 3) ++ s.memRead (p + 2), outPtr := s.memRead (p + 5) ++ s.memRead (p + 4),
    outLen := s.memRead (p + 7) ++ s.memRead (p + 6), respLen := s.memRead (p + 9) ++ s.memRead (p + 8),
    respPtr := s.memRead (p + 11) ++ s.memRead (p + 10), valid := s.memRead (p + 12) }

/-! ## Invariants -/

/-- The reserved bits of a unit's registers are 0 (R17). -/
def UnitRegs.reservedZero (r : UnitRegs) : Bool :=
  (r.ctl0 &&& ~~~existingMask .CTL0) == 0 && (r.ctl1 &&& ~~~existingMask .CTL1) == 0 &&
  (r.ifg &&& ~~~existingMask .IFG) == 0 && (r.psel &&& ~~~existingMask .PSEL) == 0

/-- The reserved bits of both units' registers are 0 (R17). -/
def State.reservedZero (s : State) : Bool := (s.regs .primary).reservedZero && (s.regs .secondary).reservedZero

/-- `BUSY` = 0 exactly in S_IDLE (R12, R14). -/
def State.busyOk (s : State) : Bool := s.busy == (s.st.st != .S_IDLE)

/-- The step of ACTIVATE that comes next for a unit, if the engine is among the ten accesses of its ACTIVATE. -/
def State.activating (s : State) (u : UnitId) : Option ActStep :=
  match s.st with
  | .act k => if s.w.u = u then some k else none
  | _ => none

/-- `ACTIVE[u]`, `SWRST`, `CTL0` and `PSEL` of a unit agree. Outside ACTIVATE's accesses: active exactly when released
(R13), `CTL0` is `0x00` or `0x0F` (R18), and an active unit is configured with its pins routed (R27). Inside them: as
the ten accesses of R82 leave them, the unit never both released and configured (R90). -/
def State.unitOk (s : State) (u : UnitId) : Bool :=
  let r := s.regs u
  let a := s.active.get u
  match s.activating u with
  | none | some .hold => (a == !r.swrst) && (r.ctl0 == 0x00 || r.ctl0 == 0x0F) && (!a || (r.ctl0 == 0x0F && r.psel == 0x03))
  | some .zero0 => r.swrst && !a && (r.ctl0 == 0x00 || r.ctl0 == 0x0F)
  | some .zero1 => r.swrst && !a && r.ctl0 == 0x00
  | some .holdAgain => !r.swrst && !a && r.ctl0 == 0x00
  | some .modes => r.swrst && !a && r.ctl0 == 0x00
  | some .clock | some .pins => r.swrst && !a && r.ctl0 == 0x0F
  | some .baudLow | some .baudHigh | some .release => r.swrst && !a && r.ctl0 == 0x0F && r.psel == 0x03

/-- The engine is in the state machine of EXECUTE: from S_START to the `raise` (R130). -/
def EngineState.inExecute (e : EngineState) : Bool :=
  match e.st with
  | .S_START | .S_TX | .S_PREP_RX | .S_WAIT_STT | .S_RX | .S_STOP | .S_WAIT_STP => true
  | .S_IDLE | .S_ENTRY | .S_ACT | .S_BUILD => false

/-- The working registers agree with the place in EXECUTE (R11, R132, R140, R142, R144): indices within their lengths
at every place, the abort's too, the NACK count below `MAX_NACK` until the abort, and 0 on entry to the receive phase;
nothing received outside a Receive; a record being read is not read past its end; and each command is about to raise
only a code of its own (R181). -/
def State.placeOk (s : State) : Bool :=
  let w := s.w
  let active := s.active.get w.u
  let fresh := w.rxIndex == 0 && !w.stopIssued
  let sending := fresh && decide (w.txIndex < w.d.outLen)
  let sent := isReceive w.d.direction && w.txIndex == w.d.outLen
  let receiving := active && sent
  let pending := sent && decide (w.rxIndex < w.d.respLen) && w.stopIssued == (w.d.respLen == 1)
  let ending := active && w.txIndex == w.d.outLen && decide (w.nackCount < Config.maxNack) &&
    w.rxIndex == (if isReceive w.d.direction then w.d.respLen else 0)
  match s.st with
  | .idle => true
  | .entryLoad _ got => decide (got.length < descriptorLoadLength)
  | .entryRaise c => c == .notInitialized || c == .unspecifiedError || c == .interfaceNotActive
  | .startAddr => active && fresh && w.txIndex == 0 && w.nackCount == 0
  | .startTr | .startStt => active && fresh && w.txIndex == 0 && w.nackCount == 0 && decide (0 < w.d.outLen)
  | .txPoll | .txFetch | .txWrite | .txNack | .txRestart =>
    active && sending && decide (w.nackCount < Config.maxNack)
  | .txClear => active && fresh && w.txIndex == w.d.outLen && w.nackCount == 0
  | .txStop | .txDisable => active && sending && w.nackCount == Config.maxNack
  | .txRaise => !active && sending && w.nackCount == Config.maxNack
  | .prepTr | .prepClear | .prepStt => receiving && fresh && w.nackCount == 0
  | .sttPoll | .sttStop => receiving && fresh && w.nackCount == 0 && w.d.respLen == 1
  | .rxPoll | .rxRead | .rxStore | .rxNack | .rxRestart =>
    active && pending && decide (w.nackCount < Config.maxNack)
  | .rxStop | .rxDisable => active && pending && w.nackCount == Config.maxNack
  | .rxRaise => !active && pending && w.nackCount == Config.maxNack
  | .stop => ending && w.stopIssued == (isReceive w.d.direction && w.d.respLen == 1)
  | .stpPoll | .stpRaise => ending && !w.stopIssued
  | .actLoad _ got => decide (got.length < configLoadLength)
  | .act _ => true
  | .actRaise c => c == .noError || c == .notInitialized || c == .unspecifiedError
  | .build _ c => c == .noError || c == .badParameters

/-- The invariant of the machine: canonical memory, reserved bits 0, `BUSY` and `st` agree, and both units and the
working registers are as the engine's place says. -/
def State.inv (s : State) : Bool :=
  Memory.wf s.mem && s.reservedZero && s.busyOk && s.unitOk .primary && s.unitOk .secondary && s.placeOk

end Sys2Proof.Machine
end

