-- ==== Sys2Proof/Certificates/Slice0/Obligations.lean ====
section
/-! DEFINITION. The statements for the provers. Each is about every state that meets its hypotheses; `prm` are the open
parameters `NACK_POLICY` and `RX_NACK_CHECK`, and a statement about them holds for every value (R4). A run with
`turns = []` is one in which no bus event and no host move falls. -/

open Sys2Proof Sys2Proof.Machine

/-! ## Encodings -/

/-- Decoding an encoded instruction gives it back, every operand at every value its encoding admits (R60 to R64, R70,
R71, R73). -/
def Obligations.DecodeOfEncodeIsTheInstruction : Prop :=
  ∀ i : Instr, i.wellFormed = true → decode (encode i) = .ok i

/-- A frame that decodes is the frame of the command it decodes to: each frame has one meaning (R60 to R65). -/
def Obligations.DecodedFrameIsTheCommandsFrame : Prop :=
  ∀ (bytes : List Byte) (i : Instr), decodeFrame bytes = .ok i → encode i = .frame bytes ∧ i.wellFormed = true

/-- An access word that decodes is the word of the primitive it decodes to: each word has one meaning, and bit 13 and
the register numbers 9 to 15 are in none (R70, R71, V12, V13). -/
def Obligations.DecodedAccessWordIsThePrimitivesWord : Prop :=
  ∀ (w : Half) (i : Instr), decodeAccess w = .ok i →
    encode i = .access w ∧ i.wellFormed = true ∧ w.getLsbD 13 = false ∧ (w.extractLsb' 8 4).toNat ≤ 8

/-- R66 and R73: a frame decodes exactly when its opcode is 1, 2, 3 or 4 and its length is that of the opcode's format
(7, 3, 15 or 3 bytes), whatever its operands are; any other submission is refused. -/
def Obligations.FrameDecodesExactlyWhenOpcodeAndLengthFit : Prop :=
  ∀ (bytes : List Byte) (s : State) (prm : Params) (rest : List Turn), s.turns = .submit bytes :: rest →
    (((∃ i, decodeFrame bytes = .ok i) ↔
      ((bytes.head? = some 0x01 ∧ bytes.length = 7) ∨ (bytes.head? = some 0x02 ∧ bytes.length = 3) ∨
       (bytes.head? = some 0x03 ∧ bytes.length = 15) ∨ (bytes.head? = some 0x04 ∧ bytes.length = 3))) ∧
     ((¬ ∃ i, decodeFrame bytes = .ok i) → ∃ e, stepWith prm s = .refused (.frameRejected e)))

/-- The operands of each format, byte by byte; a 16-bit operand is `byte[k+1] ++ byte[k]` (R61, R62, R63, R64). -/
def Obligations.FrameOperandsAreLittleEndian : Prop :=
  (∀ p0 p1 id clk d0 d1 : Byte,
    decodeFrame [0x01, p0, p1, id, clk, d0, d1] = .ok (.buildcfg (p1 ++ p0) id clk (d1 ++ d0))) ∧
  (∀ p0 p1 : Byte, decodeFrame [0x02, p0, p1] = .ok (.activate (p1 ++ p0))) ∧
  (∀ p0 p1 id o0 o1 n0 n1 a0 a1 dir r0 r1 q0 q1 : Byte,
    decodeFrame [0x03, p0, p1, id, o0, o1, n0, n1, a0, a1, dir, r0, r1, q0, q1] =
      .ok (.buildtxn (p1 ++ p0) id (o1 ++ o0) (n1 ++ n0) (a1 ++ a0) dir (r1 ++ r0) (q1 ++ q0))) ∧
  (∀ p0 p1 : Byte, decodeFrame [0x04, p0, p1] = .ok (.execute (p1 ++ p0)))

/-- Words the spec writes out decode to the instructions it gives them (R70, R71, R72, V-ENC-3, V-ENC-6). -/
def Obligations.WordsOfTheSpecDecode : Prop :=
  decodeAccess 0x8102 = .ok (.assertStart .primary) ∧ decodeAccess 0x17FF = .ok (.readRx .secondary) ∧
  decodeAccess 0xC110 = .ok (.clearTR .primary) ∧ decodeAccess 0x465A = .ok (.writeTx .primary 0x5A) ∧
  decodeAccess 0x8180 = .ok (.selectClock .primary 2) ∧
  decodeFrame [0x01, 0x00, 0x01, 0x00, 0x02, 0x34, 0x12] = .ok (.buildcfg 0x0100 0 2 0x1234) ∧
  decodeFrame [0x02, 0x00, 0x01] = .ok (.activate 0x0100) ∧ decodeFrame [0x04, 0x10, 0x01] = .ok (.execute 0x0110)

/-! ## A step and the instruction it runs -/

/-- A step runs the decoded instruction. A submitted frame that decodes to `i`: the step is `exec i` of the state without
that turn. An engine turn whose next access is the primitive `i`: `i` is what its access word decodes to, and the step
is `exec i` followed by the engine's own `advance`. -/
def Obligations.StepRunsTheDecodedInstruction : Prop :=
  ∀ (s : State) (i : Instr) (bytes : List Byte) (rest : List Turn),
    (s.turns = .submit bytes :: rest → decodeFrame bytes = .ok i → step s = exec i { s with turns := rest }) ∧
    (s.turns = .engine :: rest → s.issue = some i →
      decode (encode i) = .ok i ∧ (∃ word, encode i = .access word) ∧
      ∃ t, exec i { s with turns := rest } = .next t ∧ step s = .next (t.advance Config.params)) ∧
    (s.turns = [] → s.issue = some i → ∃ t, exec i s = .next t ∧ step s = .next (t.advance Config.params))

/-- R100: a primitive never fails, acts on one unit and changes nothing of the other; it changes no working register,
no memory and nothing of the command port. -/
def Obligations.PrimitiveNeverFailsAndActsOnOneUnit : Prop :=
  ∀ (i : Instr) (a : Access) (s : State), i.access = some a →
    ∃ t, exec i s = .next t ∧ t.w = s.w ∧ t.st = s.st ∧ t.busy = s.busy ∧ t.result = s.result ∧ t.turns = s.turns ∧
      (∀ x : Half, t.memRead x = s.memRead x) ∧
      (∀ v, v ≠ a.unit → t.regs v = s.regs v ∧ t.active.get v = s.active.get v) ∧
      ((∀ u, i ≠ .disableUnit u) → (∀ u, i ≠ .enableUnit u) → t.active = s.active)

/-- R50: the four access kinds on any register, `W` being its writable mask (R17), with the side effects of R51; an
access changes no other unit. (`UnitRegs.access` is what an access makes of its unit's registers; `State.peek` is `RD`
and `State.poke` the other three on the whole machine.) -/
def Obligations.AccessKindsFollowTheirFormulas : Prop :=
  ∀ (r : UnitRegs) (reg : UnitReg) (d : Byte),
    (∀ (s : State) (u : UnitId),
      (s.peek u reg d).ret = (s.regs u).get reg &&& d ∧ (s.peek u reg d).regs u = (s.regs u).access .RD reg d ∧
      (∀ k : AccessKind, (s.poke k u reg d).regs u = (s.regs u).access k reg d ∧ (s.poke k u reg d).ret = s.ret) ∧
      (∀ v : UnitId, v ≠ u → (s.peek u reg d).regs v = s.regs v ∧
        ∀ k : AccessKind, (s.poke k u reg d).regs v = s.regs v)) ∧
    (r.access .RD reg d).get reg = r.get reg ∧
    (r.access .WR reg d).get reg = (r.get reg &&& ~~~writableMask reg) ||| (d &&& writableMask reg) ∧
    (r.access .SET reg d).get reg = r.get reg ||| (d &&& writableMask reg) ∧
    (r.access .CLR reg d).get reg = r.get reg &&& ~~~(d &&& writableMask reg) ∧
    (∀ (k : AccessKind) (other : UnitReg), other ≠ reg → other ≠ .IFG → (r.access k reg d).get other = r.get other) ∧
    r.access .RD .IFG d = r ∧
    (reg ≠ .IFG → ∀ k : AccessKind, (r.access k reg d).ifg =
      if k = .WR ∧ reg = .TXBUF then r.ifg &&& ~~~0x02
      else if k = .RD ∧ reg = .RXBUF then r.ifg &&& ~~~0x01
      else if (k = .WR ∨ k = .SET) ∧ reg = .CTL1 ∧ d.getLsbD 1 = true then r.ifg &&& ~~~0x04
      else r.ifg)

/-! ## The primitives: word, effect, and where the engine issues them -/

/-- R101: DisableUnit. -/
def Obligations.DisableUnitHoldsAndDeactivates : Prop :=
  ∀ (s : State) (u : UnitId),
    encode (.disableUnit .primary) = .access 0x8101 ∧ encode (.disableUnit .secondary) = .access 0x9101 ∧
    exec (.disableUnit u) s = .next { s with
      units := s.units.set u { s.units.get u with ctl1 := (s.units.get u).ctl1 ||| 0x01 },
      active := s.active.set u false } ∧
    (∀ t, exec (.disableUnit u) s = .next t → ∀ e : BusEvent, e.enabled (t.regs u) = false) ∧
    ((s.regs u).swrst = true → s.active.get u = false → exec (.disableUnit u) s = .next s) ∧
    (s.issue = some (.disableUnit u) ↔
      s.w.u = u ∧ (s.st = .act .hold ∨ s.st = .act .holdAgain ∨ s.st = .txDisable ∨ s.st = .rxDisable))

/-- R102: EnableUnit. -/
def Obligations.EnableUnitReleasesAndActivates : Prop :=
  ∀ (s : State) (u : UnitId),
    encode (.enableUnit .primary) = .access 0xC101 ∧ encode (.enableUnit .secondary) = .access 0xD101 ∧
    exec (.enableUnit u) s = .next { s with
      units := s.units.set u { s.units.get u with ctl1 := (s.units.get u).ctl1 &&& 0xFE },
      active := s.active.set u true } ∧
    (s.issue = some (.enableUnit u) ↔ s.w.u = u ∧ s.st = .act .release)

/-- R103, R104, R105, R106, R107: the five control-bit writes of ACTIVATE. A reserved bit keeps its value, which is 0 in
every state whose reserved bits are 0 (R17); there ZeroCtl0 and ZeroCtl1 leave `0x00` and SetModes leaves `0x0F`. -/
def Obligations.ControlBitWritesOfActivate : Prop :=
  ∀ (s : State) (u : UnitId) (c : Byte), (s.regs u).reservedZero = true →
    (encode (.zeroCtl0 .primary) = .access 0x4000 ∧ encode (.zeroCtl1 .primary) = .access 0x4100 ∧
      encode (.setModes .primary) = .access 0x800F ∧ encode (.routePins .primary) = .access 0x8803 ∧
      encode (.selectClock .primary 0) = .access 0x8100 ∧ encode (.selectClock .primary 1) = .access 0x8140 ∧
      encode (.selectClock .primary 2) = .access 0x8180 ∧ encode (.selectClock .primary 3) = .access 0x81C0) ∧
    exec (.zeroCtl0 u) s = .next { s with units := s.units.set u { s.units.get u with ctl0 := 0x00 } } ∧
    exec (.zeroCtl1 u) s = .next { s with units := s.units.set u { s.units.get u with ctl1 := 0x00 } } ∧
    exec (.setModes u) s = .next { s with units := s.units.set u { s.units.get u with ctl0 := 0x0F } } ∧
    exec (.routePins u) s = .next { s with units := s.units.set u { s.units.get u with psel := 0x03 } } ∧
    exec (.selectClock u c) s =
      .next { s with units := s.units.set u { s.units.get u with
        ctl1 := (s.units.get u).ctl1 ||| (c.extractLsb' 0 2 ++ (0 : BitVec 6)) } } ∧
    (s.issue = some (.zeroCtl0 u) ↔ s.w.u = u ∧ s.st = .act .zero0) ∧
    (s.issue = some (.zeroCtl1 u) ↔ s.w.u = u ∧ s.st = .act .zero1) ∧
    (s.issue = some (.setModes u) ↔ s.w.u = u ∧ s.st = .act .modes) ∧
    (s.issue = some (.routePins u) ↔ s.w.u = u ∧ s.st = .act .pins) ∧
    (s.issue = some (.selectClock u c) ↔ s.w.u = u ∧ s.st = .act .clock ∧ c = s.w.c.clockSource &&& 0x03)

/-- R108, R109: the two halves of the baud divisor. -/
def Obligations.BaudHalvesAreWrittenByActivate : Prop :=
  ∀ (s : State) (u : UnitId) (b : Byte),
    encode (.writeBaudLow .primary 0x34) = .access 0x4234 ∧ encode (.writeBaudHigh .primary 0x12) = .access 0x4312 ∧
    exec (.writeBaudLow u b) s = .next { s with units := s.units.set u { s.units.get u with brl := b } } ∧
    exec (.writeBaudHigh u b) s = .next { s with units := s.units.set u { s.units.get u with brh := b } } ∧
    (s.issue = some (.writeBaudLow u b) ↔ s.w.u = u ∧ s.st = .act .baudLow ∧ b = s.w.c.baudDivider.extractLsb' 0 8) ∧
    (s.issue = some (.writeBaudHigh u b) ↔ s.w.u = u ∧ s.st = .act .baudHigh ∧ b = s.w.c.baudDivider.extractLsb' 8 8)

/-- R110, R111, R112: the slave address and the transmit direction. -/
def Obligations.SlaveAddressAndDirectionWrites : Prop :=
  ∀ (s : State) (u : UnitId) (b : Byte),
    (encode (.writeSlaveAddr .primary 0x48) = .access 0x4448 ∧ encode (.setTR .primary) = .access 0x8110 ∧
      encode (.clearTR .primary) = .access 0xC110) ∧
    exec (.writeSlaveAddr u b) s = .next { s with units := s.units.set u { s.units.get u with sa := b } } ∧
    exec (.setTR u) s =
      .next { s with units := s.units.set u { s.units.get u with ctl1 := (s.units.get u).ctl1 ||| 0x10 } } ∧
    exec (.clearTR u) s =
      .next { s with units := s.units.set u { s.units.get u with ctl1 := (s.units.get u).ctl1 &&& 0xEF } } ∧
    (s.issue = some (.writeSlaveAddr u b) ↔
      s.w.u = u ∧ s.st = .startAddr ∧ b = s.w.d.slaveAddress.extractLsb' 0 8) ∧
    (s.issue = some (.setTR u) ↔ s.w.u = u ∧ s.st = .startTr) ∧
    (s.issue = some (.clearTR u) ↔ s.w.u = u ∧ s.st = .prepTr)

/-- R113, R114: AssertStart requests a START and clears `NACK`; AssertStop requests a STOP and clears nothing. -/
def Obligations.StartAndStopRequests : Prop :=
  ∀ (s : State) (u : UnitId),
    encode (.assertStart .primary) = .access 0x8102 ∧ encode (.assertStop .primary) = .access 0x8104 ∧
    exec (.assertStart u) s = .next { s with units := s.units.set u { s.units.get u with
      ctl1 := (s.units.get u).ctl1 ||| 0x02, ifg := (s.units.get u).ifg &&& 0xFB } } ∧
    exec (.assertStop u) s =
      .next { s with units := s.units.set u { s.units.get u with ctl1 := (s.units.get u).ctl1 ||| 0x04 } } ∧
    (s.issue = some (.assertStart u) ↔
      s.w.u = u ∧ (s.st = .startStt ∨ s.st = .prepStt ∨ s.st = .txRestart ∨ s.st = .rxRestart)) ∧
    (s.issue = some (.assertStop u) ↔
      s.w.u = u ∧ (s.st = .sttStop ∨ s.st = .txStop ∨ s.st = .rxStop ∨ (s.st = .stop ∧ s.w.stopIssued = false)))

/-- R115, R116, R117, R118, R119: the five status reads return one bit and change nothing but the returned value. -/
def Obligations.StatusReadsReturnOneBit : Prop :=
  ∀ (s : State) (u : UnitId),
    (encode (.readTxRdy .primary) = .access 0x0502 ∧ encode (.readRxRdy .primary) = .access 0x0501 ∧
      encode (.readNack .primary) = .access 0x0504 ∧ encode (.readSttPending .primary) = .access 0x0102 ∧
      encode (.readStpPending .primary) = .access 0x0104) ∧
    exec (.readTxRdy u) s = .next { s with ret := if (s.regs u).txrdy then 0x02 else 0 } ∧
    exec (.readRxRdy u) s = .next { s with ret := if (s.regs u).rxrdy then 0x01 else 0 } ∧
    exec (.readNack u) s = .next { s with ret := if (s.regs u).nack then 0x04 else 0 } ∧
    exec (.readSttPending u) s = .next { s with ret := if (s.regs u).txstt then 0x02 else 0 } ∧
    exec (.readStpPending u) s = .next { s with ret := if (s.regs u).txstp then 0x04 else 0 } ∧
    (s.issue = some (.readTxRdy u) ↔ s.w.u = u ∧ s.st = .txPoll) ∧
    (s.issue = some (.readRxRdy u) ↔ s.w.u = u ∧ s.st = .rxPoll) ∧
    (s.issue = some (.readNack u) ↔ s.w.u = u ∧ (s.st = .txNack ∨ s.st = .rxNack)) ∧
    (s.issue = some (.readSttPending u) ↔ s.w.u = u ∧ s.st = .sttPoll) ∧
    (s.issue = some (.readStpPending u) ↔ s.w.u = u ∧ s.st = .stpPoll)

/-- R120, R121, R122: ClearTxRdy, WriteTx and ReadRx, with the flag each clears. -/
def Obligations.DataRegisterAccessesClearTheirFlag : Prop :=
  ∀ (s : State) (u : UnitId) (b : Byte),
    (encode (.clearTxRdy .primary) = .access 0xC502 ∧ encode (.writeTx .primary 0x5A) = .access 0x465A ∧
      encode (.readRx .primary) = .access 0x07FF) ∧
    exec (.clearTxRdy u) s =
      .next { s with units := s.units.set u { s.units.get u with ifg := (s.units.get u).ifg &&& 0xFD } } ∧
    exec (.writeTx u b) s = .next { s with units := s.units.set u { s.units.get u with
      txbuf := b, ifg := (s.units.get u).ifg &&& 0xFD } } ∧
    exec (.readRx u) s = .next { s with ret := (s.units.get u).rxbuf, units := s.units.set u { s.units.get u with
      ifg := (s.units.get u).ifg &&& 0xFE } } ∧
    (s.issue = some (.clearTxRdy u) ↔ s.w.u = u ∧ (s.st = .txClear ∨ s.st = .prepClear)) ∧
    (s.issue = some (.writeTx u b) ↔ s.w.u = u ∧ s.st = .txWrite ∧ b = s.ret) ∧
    (s.issue = some (.readRx u) ↔ s.w.u = u ∧ s.st = .rxRead)

/-! ## Bus agents, host and reset -/

/-- R161 to R165, under R160: each event happens, with its effect, exactly when the unit is released and configured
and its precondition holds; at any other time the turn changes nothing, which is the model's choice (log entry 6). -/
def Obligations.BusEventsHappenWhenEnabled : Prop :=
  ∀ (prm : Params) (s : State) (u : UnitId) (e : BusEvent) (rest : List Turn), s.turns = .bus u e :: rest →
    let r := s.units.get u
    let happens := r.swrst = false ∧ r.ctl0 = 0x0F ∧
      (match e with
       | .startDone => r.txstt = true
       | .stopDone => r.txstp = true
       | .txReady => r.tr = true ∧ r.txrdy = false
       | .nack => r.nack = false
       | .rxByte _ => r.tr = false ∧ r.rxrdy = false)
    let r' := (match e with
       | .startDone => { r with ctl1 := r.ctl1 &&& 0xFD }
       | .stopDone => { r with ctl1 := r.ctl1 &&& 0xFB }
       | .txReady => { r with ifg := r.ifg ||| 0x02 }
       | .nack => { r with ifg := r.ifg ||| 0x04 }
       | .rxByte b => { r with rxbuf := b, ifg := r.ifg ||| 0x01 } : UnitRegs)
    (happens → stepWith prm s = .next { s with turns := rest, units := s.units.set u r' }) ∧
    (¬ happens → stepWith prm s = .next { s with turns := rest })

/-- R166: what a bus agent never changes. -/
def Obligations.BusAgentNeverChangesTheRest : Prop :=
  ∀ (prm : Params) (s t : State) (u : UnitId) (e : BusEvent) (rest : List Turn), s.turns = .bus u e :: rest →
    stepWith prm s = .next t →
    t.w = s.w ∧ t.st = s.st ∧ t.active = s.active ∧ t.busy = s.busy ∧ t.result = s.result ∧ t.mem = s.mem ∧
    (∀ v, v ≠ u → t.regs v = s.regs v) ∧
    (t.regs u).ctl0 = (s.regs u).ctl0 ∧ (t.regs u).ctl1 &&& 0xF9 = (s.regs u).ctl1 &&& 0xF9 ∧
    (t.regs u).brl = (s.regs u).brl ∧ (t.regs u).brh = (s.regs u).brh ∧ (t.regs u).sa = (s.regs u).sa ∧
    (t.regs u).txbuf = (s.regs u).txbuf ∧ (t.regs u).psel = (s.regs u).psel ∧
    (t.regs u).ifg &&& (s.regs u).ifg = (s.regs u).ifg

/-- R169(c), for every step: a flag of `IFG` that the engine's step finds 0 stays 0, and a pending bit that the engine
finds 1 stays 1 but for the zero write of ACTIVATE's third access. -/
def Obligations.EngineNeverSetsFlagsNorServesRequests : Prop :=
  ∀ (prm : Params) (s t : State) (v : UnitId), s.turns = [] → stepWith prm s = .next t →
    (t.regs v).ifg &&& (s.regs v).ifg = (t.regs v).ifg ∧
    (s.st ≠ .act .zero1 → (t.regs v).ctl1 &&& (s.regs v).ctl1 &&& 0x06 = (s.regs v).ctl1 &&& 0x06)

/-- R90: between step 1 and step 10 of ACTIVATE no event of the unit's bus agent can occur, in every state in which the
unit's registers are as the accesses before leave them. -/
def Obligations.NoBusEventInsideActivate : Prop :=
  ∀ (s : State) (u : UnitId) (k : ActStep) (e : BusEvent), s.unitOk u = true → s.st = .act k → s.w.u = u →
    k ≠ .hold → e.enabled (s.regs u) = false

/-- R210 for the values the spec gives: the state after reset, and after a power-on reset at any time. That a reset may
fall at any time is the model's choice (log entry 12). -/
def Obligations.ResetLeavesTheGivenValues : Prop :=
  ∀ (prm : Params) (s : State) (rest : List Turn), s.turns = .powerOn :: rest →
    ∃ t, stepWith prm s = .next t ∧ t.turns = rest ∧
      ∀ x, (x = t ∨ x = State.reset) →
        x.active = { primary := false, secondary := false } ∧ x.st.st = .S_IDLE ∧ x.busy = false ∧
        ∀ u, (x.regs u).ctl0 = 0x00 ∧ (x.regs u).ctl1 = 0x01 ∧ (x.regs u).ifg = 0x00 ∧ (x.regs u).psel = 0x00

/-- R212: right after reset no event of a bus agent is enabled, and the engine, in S_IDLE, does nothing. That a turn of an
event that is not enabled leaves the machine as it is, and that the idle engine's step answers the same state, are the
model's choices (log entries 6 and 16). -/
def Obligations.ResetStateIsStable : Prop :=
  ∀ (prm : Params) (u : UnitId) (e : BusEvent) (rest : List Turn),
    e.enabled (State.reset.regs u) = false ∧
    stepWith prm { State.reset with turns := .bus u e :: rest } = .next { State.reset with turns := rest } ∧
    stepWith prm { State.reset with turns := .engine :: rest } = .next { State.reset with turns := rest } ∧
    stepWith prm State.reset = .next State.reset

/-- R28, R41: the host writes any byte of memory while `BUSY` = 0, which changes that byte alone; while `BUSY` = 1 its
submission of a command is refused (R198, V3), and so is its write of memory, which is the model's choice (log entry
10). -/
def Obligations.HostActsOnlyWhileIdle : Prop :=
  ∀ (prm : Params) (s : State) (a : Half) (b : Byte) (bytes : List Byte) (i : Instr) (rest : List Turn),
    Memory.wf s.mem = true →
    (s.turns = .hostWrite a b :: rest → s.busy = false →
      ∃ t, stepWith prm s = .next t ∧ t = { s with turns := rest, mem := t.mem } ∧ t.memRead a = b ∧
        ∀ x, x ≠ a → t.memRead x = s.memRead x) ∧
    (s.turns = .hostWrite a b :: rest → s.busy = true → stepWith prm s = .refused .hostWriteWhileBusy) ∧
    (s.turns = .submit bytes :: rest → s.busy = true → decodeFrame bytes = .ok i →
      stepWith prm s = .refused .submitWhileBusy)

/-! ## Invariants that every step keeps -/

/-- Every step keeps host memory in its canonical form (R28: 65536 bytes; the form is the model's own, log entry 4). -/
def Obligations.StepKeepsMemoryCanonical : Prop :=
  ∀ s t : State, Memory.wf s.mem = true → step s = .next t → Memory.wf t.mem = true

/-- R17: reserved bits of the unit registers are 0, and every step keeps them so. -/
def Obligations.StepKeepsReservedBitsZero : Prop :=
  ∀ s t : State, s.reservedZero = true → step s = .next t → t.reservedZero = true

/-- R12, R14: `BUSY` = 0 exactly in S_IDLE, and every step keeps it so. -/
def Obligations.StepKeepsBusyWithState : Prop :=
  ∀ s t : State, s.busyOk = true → step s = .next t → t.busyOk = true

/-- R13, R18, R27, R90: `ACTIVE`, `SWRST`, `CTL0` and `PSEL` of a unit agree as `State.unitOk` says, and every step
keeps them so (given that `BUSY` and `st` agree, so that no command is accepted inside another, and that reserved bits
are 0). The fact R27 rests on: no step but those of the unit's own ACTIVATE and a power-on reset changes `CTL0`, `SSEL`,
`BRL`, `BRH` or `PSEL`. -/
def Obligations.StepKeepsActiveWithRelease : Prop :=
  ∀ (s t : State) (u : UnitId), s.busyOk = true → s.reservedZero = true → s.unitOk u = true → step s = .next t →
    t.unitOk u = true ∧
    (s.activating u = none → s.turns.head? ≠ some .powerOn →
      (t.regs u).ctl0 = (s.regs u).ctl0 ∧ (t.regs u).ssel = (s.regs u).ssel ∧ (t.regs u).brl = (s.regs u).brl ∧
      (t.regs u).brh = (s.regs u).brh ∧ (t.regs u).psel = (s.regs u).psel)

/-- R11, R132, R140: from S_START to its `raise` EXECUTE keeps the indices within their lengths and the NACK count within
`MAX_NACK`; `State.placeOk` says so for each place, and every step keeps it. -/
def Obligations.StepKeepsIndicesWithinLengths : Prop :=
  (∀ s t : State, s.placeOk = true → step s = .next t → t.placeOk = true) ∧
  (∀ s : State, s.placeOk = true → s.st.inExecute = true →
    s.w.txIndex.toNat ≤ s.w.d.outLen.toNat ∧ s.w.nackCount.toNat ≤ 10 ∧
    (s.w.d.direction = 1 → s.w.rxIndex.toNat ≤ s.w.d.respLen.toNat) ∧ (s.w.d.direction ≠ 1 → s.w.rxIndex = 0))

/-- All the invariants hold right after reset. -/
def Obligations.ResetMeetsTheInvariants : Prop := State.reset.inv = true

/-! ## The commands -/

/-- R81: BUILDCFG, from its acceptance to its `raise`, for every operand. -/
def Obligations.BuildcfgWritesTheConfigRecord : Prop :=
  ∀ (prm : Params) (s : State) (p : Half) (id clk : Byte) (div : Half),
    s.busy = false → s.st = .idle → s.turns = [] → Memory.wf s.mem = true →
    let idOk := id = 0 ∨ id = 1
    let clkOk := clk = 0 ∨ clk = 1 ∨ clk = 2
    (p ≠ 0 → idOk → clkOk → ∃ t t', exec (.buildcfg p id clk div) s = .next t ∧ t.st.st = .S_BUILD ∧ t.busy = true ∧
      runWith prm 7 t = .next t' ∧ t' = { s with mem := t'.mem, result := 0 } ∧
      t'.memRead p = id ∧ t'.memRead (p + 1) = clk ∧ t'.memRead (p + 2) = div.extractLsb' 0 8 ∧
      t'.memRead (p + 3) = div.extractLsb' 8 8 ∧ t'.memRead (p + 4) = 0x01 ∧ t'.memRead (p + 5) = 0x00 ∧
      ∀ a : Half, (∀ k : Nat, k < 6 → a ≠ p + BitVec.ofNat 16 k) → t'.memRead a = s.memRead a) ∧
    (p ≠ 0 → ¬ (idOk ∧ clkOk) → ∃ t t', exec (.buildcfg p id clk div) s = .next t ∧
      runWith prm 2 t = .next t' ∧ t' = { s with mem := t'.mem, result := 2 } ∧ t'.memRead (p + 5) = 2 ∧
      ∀ a : Half, a ≠ p + 5 → t'.memRead a = s.memRead a) ∧
    (p = 0 → ∃ t, exec (.buildcfg p id clk div) s = .next t ∧ runWith prm 1 t = .next { s with result := 2 })

/-- R83: BUILDTXN, from its acceptance to its `raise`, for every operand. -/
def Obligations.BuildtxnWritesTheDescriptorRecord : Prop :=
  ∀ (prm : Params) (s : State) (p : Half) (id : Byte) (outPtr outLen addr : Half) (dir : Byte) (respLen respPtr : Half),
    s.busy = false → s.st = .idle → s.turns = [] → Memory.wf s.mem = true →
    let good := outPtr ≠ 0 ∧ respPtr ≠ 0 ∧ addr.toNat ≤ 255 ∧ (dir = 0 ∨ dir = 1) ∧ (id = 0 ∨ id = 1) ∧
      (dir = 1 → respLen ≠ 0)
    let i := Instr.buildtxn p id outPtr outLen addr dir respLen respPtr
    (p ≠ 0 → good → ∃ t t', exec i s = .next t ∧ t.st.st = .S_BUILD ∧ t.busy = true ∧
      runWith prm 15 t = .next t' ∧ t' = { s with mem := t'.mem, result := 0 } ∧
      t'.descriptorAt p = {
        interfaceId := id, direction := dir, slaveAddress := addr, outPtr := outPtr
        outLen := outLen, respLen := respLen, respPtr := respPtr, valid := 0x01 } ∧
      t'.memRead (p + 13) = 0x00 ∧
      ∀ a : Half, (∀ k : Nat, k < 14 → a ≠ p + BitVec.ofNat 16 k) → t'.memRead a = s.memRead a) ∧
    (p ≠ 0 → ¬ good → ∃ t t', exec i s = .next t ∧ runWith prm 2 t = .next t' ∧
      t' = { s with mem := t'.mem, result := 2 } ∧ t'.memRead (p + 13) = 2 ∧
      ∀ a : Half, a ≠ p + 13 → t'.memRead a = s.memRead a) ∧
    (p = 0 → ∃ t, exec i s = .next t ∧ runWith prm 1 t = .next { s with result := 2 })

/-- R82: ACTIVATE of a valid Config, from its acceptance to its `raise`: the ten accesses in order, the final registers,
and nothing else changed. -/
def Obligations.ActivateProgramsTheUnit : Prop :=
  ∀ (prm : Params) (s : State) (p : Half) (u : UnitId),
    s.busy = false → s.st = .idle → s.turns = [] → (s.regs u).reservedZero = true → p ≠ 0 →
    let c := s.configAt p
    c.valid = 0x01 → c.interfaceId = u.bit.setWidth 8 →
    let r' := { s.units.get u with
      ctl0 := 0x0F, ctl1 := c.clockSource.extractLsb' 0 2 ++ (0 : BitVec 6), psel := 0x03
      brl := c.baudDivider.extractLsb' 0 8, brh := c.baudDivider.extractLsb' 8 8 }
    ∃ t t', exec (.activate p) s = .next t ∧ t.st.st = .S_ACT ∧ t.busy = true ∧ runWith prm 16 t = .next t' ∧
      t' = { s with w := { s.w with c := c, u := u }, result := 0, active := s.active.set u true,
                    units := s.units.set u r' } ∧
      (traceWith prm 16 t).map (fun x => encode x.1) = (([.disableUnit u, .zeroCtl0 u, .zeroCtl1 u, .disableUnit u,
        .setModes u, .selectClock u (c.clockSource &&& 3), .routePins u, .writeBaudLow u (c.baudDivider.extractLsb' 0 8),
        .writeBaudHigh u (c.baudDivider.extractLsb' 8 8), .enableUnit u] : List Instr).map encode)

/-- R82, R183, R187, R190: ACTIVATE of a null pointer, an invalid record or a bad id raises its code and touches no
unit register. -/
def Obligations.ActivateChecksTheRecordFirst : Prop :=
  ∀ (prm : Params) (s : State) (p : Half), s.busy = false → s.st = .idle → s.turns = [] →
    let c := s.configAt p
    (p = 0 → ∃ t, exec (.activate p) s = .next t ∧ runWith prm 1 t = .next { s with result := 1 } ∧
      traceWith prm 1 t = []) ∧
    (p ≠ 0 → c.valid ≠ 0x01 → ∃ t, exec (.activate p) s = .next t ∧
      runWith prm 6 t = .next { s with result := 1, w := { s.w with c := c } } ∧ traceWith prm 6 t = []) ∧
    (p ≠ 0 → c.valid = 0x01 → c.interfaceId ≠ 0 → c.interfaceId ≠ 1 → ∃ t, exec (.activate p) s = .next t ∧
      runWith prm 6 t = .next { s with result := 5, w := { s.w with c := c } } ∧ traceWith prm 6 t = [])

/-- R89: activating a second time from the same record changes no register and no `ACTIVE` bit. -/
def Obligations.ActivateIsIdempotent : Prop :=
  ∀ (prm : Params) (s t t' t2 t2' : State) (p : Half) (u : UnitId),
    s.busy = false → s.st = .idle → s.turns = [] → (s.regs u).reservedZero = true → p ≠ 0 →
    (s.configAt p).valid = 0x01 → (s.configAt p).interfaceId = u.bit.setWidth 8 →
    exec (.activate p) s = .next t → runWith prm 16 t = .next t' →
    exec (.activate p) t' = .next t2 → runWith prm 16 t2 = .next t2' →
    t2'.units = t'.units ∧ t2'.active = t'.active ∧ t2'.result = t'.result ∧ t2'.mem = t'.mem

/-- §8's first property (R81, R82, R108, R109): for every valid operand, BUILDCFG and then ACTIVATE of its record both
raise NoError, and the unit's divisor halves are the divider's. -/
def Obligations.BuiltConfigActivatesWithItsDivider : Prop :=
  ∀ (prm : Params) (s : State) (p : Half) (u : UnitId) (clk : Byte) (div : Half),
    s.busy = false → s.st = .idle → s.turns = [] → s.inv = true → p ≠ 0 → clk.toNat ≤ 2 →
    ∃ t t' t2 t2', exec (.buildcfg p (u.bit.setWidth 8) clk div) s = .next t ∧ runWith prm 7 t = .next t' ∧
      t'.result = 0 ∧ exec (.activate p) t' = .next t2 ∧ runWith prm 16 t2 = .next t2' ∧ t2'.result = 0 ∧
      t2'.active.get u = true ∧ (t2'.regs u).brl.toNat = div.toNat % 256 ∧ (t2'.regs u).brh.toNat = div.toNat / 256 ∧
      (t2'.regs u).ssel.toNat = clk.toNat ∧ (t2'.regs u).configured = true ∧ (t2'.regs u).swrst = false

/-- R84: EXECUTE's entry, from its acceptance: the checks in order, each with its code and no register access; and with
all passed, S_START with the Descriptor latched and the four working registers at 0. -/
def Obligations.ExecuteEntryChecksInOrder : Prop :=
  ∀ (prm : Params) (s : State) (p : Half), s.busy = false → s.st = .idle → s.turns = [] →
    let d := s.descriptorAt p
    (p = 0 → ∃ t, exec (.execute p) s = .next t ∧ runWith prm 1 t = .next { s with result := 1 } ∧
      traceWith prm 1 t = []) ∧
    (p ≠ 0 → d.valid ≠ 0x01 → ∃ t, exec (.execute p) s = .next t ∧
      runWith prm 14 t = .next { s with result := 1, w := { s.w with d := d } } ∧ traceWith prm 14 t = []) ∧
    (p ≠ 0 → d.valid = 0x01 → d.interfaceId ≠ 0 → d.interfaceId ≠ 1 → ∃ t, exec (.execute p) s = .next t ∧
      runWith prm 14 t = .next { s with result := 5, w := { s.w with d := d } } ∧ traceWith prm 14 t = []) ∧
    (∀ u : UnitId, p ≠ 0 → d.valid = 0x01 → d.interfaceId = u.bit.setWidth 8 → s.active.get u = false →
      ∃ t, exec (.execute p) s = .next t ∧
        runWith prm 14 t = .next { s with result := 3, w := { s.w with d := d, u := u } } ∧ traceWith prm 14 t = []) ∧
    (∀ u : UnitId, p ≠ 0 → d.valid = 0x01 → d.interfaceId = u.bit.setWidth 8 → s.active.get u = true →
      ∃ t, exec (.execute p) s = .next t ∧ t.st.st = .S_ENTRY ∧ t.busy = true ∧
        runWith prm 13 t = .next { s with busy := true, st := .startAddr, w := { s.w with
          d := d, u := u, txIndex := 0, rxIndex := 0, nackCount := 0, stopIssued := false } } ∧
        traceWith prm 13 t = [])

/-- R181: each command raises only codes of its own: BUILDCFG and BUILDTXN 0 and 2, ACTIVATE 0, 1 and 5, EXECUTE 0, 1,
3, 4 and 5, from every state that meets `State.placeOk`. -/
def Obligations.CommandsRaiseOnlyTheirCodes : Prop :=
  ∀ (prm : Params) (s t : State), s.placeOk = true → s.quiet = true → stepWith prm s = .next t →
    s.st ≠ .idle → t.st = .idle →
    t.busy = false ∧
    (s.st.st = .S_BUILD → t.result = 0 ∨ t.result = 2) ∧
    (s.st.st = .S_ACT → t.result = 0 ∨ t.result = 1 ∨ t.result = 5) ∧
    (s.st.st = .S_ENTRY → t.result = 1 ∨ t.result = 3 ∨ t.result = 5) ∧
    (s.st.st = .S_TX ∨ s.st.st = .S_RX → t.result = 4) ∧
    (s.st.st = .S_STOP ∨ s.st.st = .S_WAIT_STP → t.result = 0) ∧
    (s.st.st ≠ .S_START ∧ s.st.st ≠ .S_PREP_RX ∧ s.st.st ≠ .S_WAIT_STT)

/-! ## The state machine of EXECUTE -/

/-- R131: S_START. -/
def Obligations.StartWritesTheAddressAndOpensTheTransfer : Prop :=
  ∀ (prm : Params) (s : State), s.turns = [] → s.st = .startAddr →
    let u := s.w.u
    let r := s.units.get u
    let a := s.w.d.slaveAddress.extractLsb' 0 8
    (0 < s.w.d.outLen.toNat →
      runWith prm 3 s = .next { s with
        st := .txPoll
        units := s.units.set u { r with sa := a, ctl1 := r.ctl1 ||| 0x12, ifg := r.ifg &&& 0xFB } } ∧
      (traceWith prm 3 s).map Prod.fst = [.writeSlaveAddr u a, .setTR u, .assertStart u]) ∧
    (s.w.d.outLen = 0 →
      runWith prm 1 s = .next { s with
        st := if s.w.d.direction = 1 then .prepTr else .stop
        units := s.units.set u { r with sa := a } } ∧
      (traceWith prm 1 s).map Prod.fst = [.writeSlaveAddr u a])

/-- R133 (with R132's exit): the ready branch of S_TX, whatever the NACK flag is. -/
def Obligations.TransmitReadyWritesTheNextByte : Prop :=
  ∀ (prm : Params) (s : State), s.turns = [] → s.st = .txPoll → (s.regs s.w.u).txrdy = true →
    let u := s.w.u
    let r := s.units.get u
    let b := s.memRead (s.w.d.outPtr + s.w.txIndex)
    let s' := { s with ret := b, w := { s.w with nackCount := 0, txIndex := s.w.txIndex + 1 },
                       units := s.units.set u { r with txbuf := b, ifg := r.ifg &&& 0xFD } }
    (s.w.txIndex + 1 ≠ s.w.d.outLen →
      runWith prm 3 s = .next { s' with st := .txPoll } ∧
      (traceWith prm 3 s).map Prod.fst = [.readTxRdy u, .writeTx u b]) ∧
    (s.w.txIndex + 1 = s.w.d.outLen →
      runWith prm 4 s = .next { s' with st := if s.w.d.direction = 1 then .prepTr else .stop } ∧
      (traceWith prm 4 s).map Prod.fst = [.readTxRdy u, .writeTx u b, .clearTxRdy u])

/-- R134, R135, R136: the other two branches of S_TX. With no NACK nothing changes; with one it is counted, the index
rewound under `RestartMessage` alone, and below `MAX_NACK` = 10 a START requested again. -/
def Obligations.TransmitNackCountsAndRestarts : Prop :=
  ∀ (prm : Params) (s : State), s.turns = [] → s.st = .txPoll → (s.regs s.w.u).txrdy = false →
    let u := s.w.u
    let r := s.units.get u
    let w' := { s.w with nackCount := s.w.nackCount + 1,
                         txIndex := if prm.nackPolicy = .restartMessage then 0 else s.w.txIndex }
    ((s.regs u).nack = false → runWith prm 2 s = .next { s with ret := 0 } ∧
      (traceWith prm 2 s).map Prod.fst = [.readTxRdy u, .readNack u]) ∧
    ((s.regs u).nack = true → s.w.nackCount.toNat + 1 < 10 →
      runWith prm 3 s = .next { s with
        ret := 0x04, w := w'
        units := s.units.set u { r with ctl1 := r.ctl1 ||| 0x02, ifg := r.ifg &&& 0xFB } } ∧
      (traceWith prm 3 s).map Prod.fst = [.readTxRdy u, .readNack u, .assertStart u])

/-- R137, with the tenth observation of R135 and R142: STOP requested, the unit held and inactive, NackLimitReached, from
S_TX and, when `RX_NACK_CHECK`, from S_RX, there also when S_WAIT_STT has requested its STOP (log entry 24). -/
def Obligations.TenthNackAborts : Prop :=
  ∀ (prm : Params) (s : State), s.turns = [] → s.w.nackCount = 9 → (s.regs s.w.u).nack = true →
    let u := s.w.u
    let r := s.units.get u
    let s' := { s with ret := 0x04, st := .idle, busy := false, result := 4, active := s.active.set u false,
                       units := s.units.set u { r with ctl1 := r.ctl1 ||| 0x05 } }
    (s.st = .txPoll → (s.regs u).txrdy = false →
      runWith prm 5 s = .next { s' with w := { s.w with
        nackCount := 10
        txIndex := if prm.nackPolicy = .restartMessage then 0 else s.w.txIndex } } ∧
      (traceWith prm 5 s).map Prod.fst = [.readTxRdy u, .readNack u, .assertStop u, .disableUnit u]) ∧
    (s.st = .rxPoll → (s.regs u).rxrdy = false → prm.rxNackCheck = true →
      runWith prm 5 s = .next { s' with w := { s.w with nackCount := 10 } } ∧
      (traceWith prm 5 s).map Prod.fst = [.readRxRdy u, .readNack u, .assertStop u, .disableUnit u])

/-- R138: S_PREP_RX, and where it leads. -/
def Obligations.PrepareReceiveTurnsTheBusAround : Prop :=
  ∀ (prm : Params) (s : State), s.turns = [] → s.st = .prepTr → s.w.rxIndex = 0 →
    let u := s.w.u
    let r := s.units.get u
    runWith prm 3 s = .next { s with
      st := if s.w.d.respLen = 1 then .sttPoll else if s.w.d.respLen = 0 then .stop else .rxPoll,
      units := s.units.set u { r with ctl1 := r.ctl1 &&& 0xEF ||| 0x02, ifg := r.ifg &&& 0xF9 } } ∧
    (traceWith prm 3 s).map Prod.fst = [.clearTR u, .clearTxRdy u, .assertStart u]

/-- R139: S_WAIT_STT polls while the START is pending, and requests the one STOP in the very next access after the read
that returns 0. -/
def Obligations.SingleByteReadStopsRightAfterStart : Prop :=
  ∀ (prm : Params) (s : State), s.turns = [] → s.st = .sttPoll →
    let u := s.w.u
    let r := s.units.get u
    ((s.regs u).txstt = true → runWith prm 1 s = .next { s with ret := 0x02 } ∧
      traceWith prm 1 s = [(.readSttPending u, 0x02)]) ∧
    ((s.regs u).txstt = false → s.w.rxIndex < s.w.d.respLen →
      runWith prm 2 s = .next { s with
        ret := 0, st := .rxPoll, w := { s.w with stopIssued := true }
        units := s.units.set u { r with ctl1 := r.ctl1 ||| 0x04 } } ∧
      (traceWith prm 2 s).map Prod.fst = [.readSttPending u, .assertStop u])

/-- R141 (with R140's exit): the ready branch of S_RX stores the received byte at `respPtr + w.rxIndex` and nowhere
else, whatever the NACK flag is. -/
def Obligations.ReceiveReadyStoresTheByte : Prop :=
  ∀ (prm : Params) (s : State), s.turns = [] → s.st = .rxPoll → (s.regs s.w.u).rxrdy = true → Memory.wf s.mem = true →
    let u := s.w.u
    let r := s.units.get u
    let a := s.w.d.respPtr + s.w.rxIndex
    ∃ t, runWith prm 3 s = .next t ∧
      t = { s with ret := r.rxbuf, mem := t.mem, w := { s.w with rxIndex := s.w.rxIndex + 1 },
                   st := if (s.w.rxIndex + 1).toNat < s.w.d.respLen.toNat then .rxPoll else .stop,
                   units := s.units.set u { r with ifg := r.ifg &&& 0xFE } } ∧
      t.memRead a = r.rxbuf ∧ (∀ x, x ≠ a → t.memRead x = s.memRead x) ∧
      (traceWith prm 3 s).map Prod.fst = [.readRxRdy u, .readRx u]

/-- R142, R143: the other branches of S_RX. Without `RX_NACK_CHECK` the NACK flag is never read; with it a NACK is
counted and below `MAX_NACK` = 10 a START requested again, no index changing. -/
def Obligations.ReceiveNackCountsAndRestarts : Prop :=
  ∀ (prm : Params) (s : State), s.turns = [] → s.st = .rxPoll → (s.regs s.w.u).rxrdy = false →
    let u := s.w.u
    let r := s.units.get u
    (prm.rxNackCheck = false → runWith prm 1 s = .next { s with ret := 0 } ∧
      traceWith prm 1 s = [(.readRxRdy u, 0)]) ∧
    (prm.rxNackCheck = true → (s.regs u).nack = false → runWith prm 2 s = .next { s with ret := 0 } ∧
      (traceWith prm 2 s).map Prod.fst = [.readRxRdy u, .readNack u]) ∧
    (prm.rxNackCheck = true → (s.regs u).nack = true → s.w.nackCount.toNat + 1 < 10 →
      runWith prm 3 s = .next { s with
        ret := 0x04, w := { s.w with nackCount := s.w.nackCount + 1 }
        units := s.units.set u { r with ctl1 := r.ctl1 ||| 0x02, ifg := r.ifg &&& 0xFB } } ∧
      (traceWith prm 3 s).map Prod.fst = [.readRxRdy u, .readNack u, .assertStart u])

/-- R144, R145, R146: S_STOP and S_WAIT_STP. -/
def Obligations.StopIsRequestedOnceAndAwaited : Prop :=
  ∀ (prm : Params) (s : State), s.turns = [] →
    let u := s.w.u
    let r := s.units.get u
    (s.st = .stop → s.w.stopIssued = true →
      runWith prm 1 s = .next { s with st := .idle, busy := false, result := 0 } ∧ traceWith prm 1 s = []) ∧
    (s.st = .stop → s.w.stopIssued = false →
      runWith prm 1 s = .next { s with st := .stpPoll, units := s.units.set u { r with ctl1 := r.ctl1 ||| 0x04 } } ∧
      (traceWith prm 1 s).map Prod.fst = [.assertStop u]) ∧
    (s.st = .stpPoll → r.txstp = true → runWith prm 1 s = .next { s with ret := 0x04 } ∧
      (traceWith prm 1 s).map Prod.fst = [.readStpPending u]) ∧
    (s.st = .stpPoll → r.txstp = false →
      runWith prm 2 s = .next { s with ret := 0, st := .idle, busy := false, result := 0 } ∧
      (traceWith prm 2 s).map Prod.fst = [.readStpPending u])

/-! ## Rules of the whole machine -/

/-- R84, R56: from S_START to its end EXECUTE keeps the Descriptor it latched and the unit it chose, whatever the bus
agents do and whatever it writes to host memory. -/
def Obligations.RunningExecuteKeepsItsDescriptor : Prop :=
  ∀ (prm : Params) (s t : State) (n : Nat), s.quiet = true → s.st = .startAddr → runWith prm n s = .next t →
    t.w.d = s.w.d ∧ t.w.u = s.w.u ∧ t.w.c = s.w.c ∧
    (t.st = .idle ∨ (t.st.st ≠ .S_IDLE ∧ t.st.st ≠ .S_ENTRY ∧ t.st.st ≠ .S_ACT ∧ t.st.st ≠ .S_BUILD))

/-- R48: in one step of the engine or of a bus agent a byte of host memory changes only if a build command writes it
next, or EXECUTE stores a received byte at `respPtr + w.rxIndex`. -/
def Obligations.EngineWritesMemoryOnlyWhereItsRulesSay : Prop :=
  ∀ (prm : Params) (s t : State) (x : Half), s.quiet = true → Memory.wf s.mem = true → stepWith prm s = .next t →
    t.memRead x ≠ s.memRead x →
    (∃ b rest c, s.st = .build ((x, b) :: rest) c ∧ t.memRead x = b) ∨
    (s.st = .rxStore ∧ x = s.w.d.respPtr + s.w.rxIndex ∧ t.memRead x = s.ret)

/-- R53(c), R197: the engine's step changes no register and no `ACTIVE` bit of the unit its command does not address, and
what those are has no influence on what else it does, once the command has chosen its unit. -/
def Obligations.OtherUnitNeitherChangesNorMatters : Prop :=
  ∀ (prm : Params) (s t : State) (v : UnitId) (r : UnitRegs) (b : Bool), v ≠ s.w.u → s.st.st ≠ .S_ENTRY →
    s.turns = [] → stepWith prm s = .next t →
    t.regs v = s.regs v ∧ t.active.get v = s.active.get v ∧
    stepWith prm ((s.setRegs v r).setActive v b) = .next ((t.setRegs v r).setActive v b)

/-- R149(c) and the second half of R149: whatever the bus agents do, an EXECUTE that has returned NoError issued
AssertStop exactly once and no DisableUnit, and left the unit active; with NackLimitReached it issued DisableUnit once
and last, left the unit inactive, and issued AssertStop once, or twice where S_WAIT_STT of a single-byte receive had
issued its own (R139) before the abort's (R137): R149 says once there too, and the model's choice is log entry 24. -/
def Obligations.ReturnedExecuteCountsItsStops : Prop :=
  ∀ (prm : Params) (s t : State) (n : Nat), s.quiet = true → s.placeOk = true → s.st = .startAddr →
    runWith prm n s = .next t → t.st = .idle →
    let tr := traceWith prm n s
    ((t.result = 0 ∧ tr.countP isAssertStop = 1 ∧ tr.countP isDisableUnit = 0 ∧ t.active.get s.w.u = true) ∨
     (t.result = 4 ∧ tr.countP isAssertStop = 1 + tr.countP isSttDone ∧
      (tr.countP isSttDone = 0 ∨ (tr.countP isSttDone = 1 ∧ s.w.d.direction = 1 ∧ s.w.d.respLen = 1)) ∧
      tr.countP isDisableUnit = 1 ∧ t.active.get s.w.u = false ∧
      tr.getLast?.map Prod.fst = some (.disableUnit s.w.u)))

/-- R149(a): the bytes an EXECUTE that returned NoError has written. Under `ResendByte`, or when no NACK was observed at
all, they are the message's bytes in order, each once; under `RestartMessage` they are proper prefixes of the message
one after another and then the whole message. -/
def Obligations.ReturnedExecuteSentTheMessage : Prop :=
  ∀ (prm : Params) (s t : State) (n : Nat), s.quiet = true → s.placeOk = true → s.st = .startAddr →
    runWith prm n s = .next t → t.st = .idle → t.result = 0 →
    ((prm.nackPolicy = .resendByte ∨ (traceWith prm n s).countP isNackSeen = 0) →
      (traceWith prm n s).filterMap writtenByte = s.message) ∧
    (prm.nackPolicy = .restartMessage → ∃ ks : List Nat, (∀ k, k ∈ ks → k < s.w.d.outLen.toNat) ∧
      (traceWith prm n s).filterMap writtenByte = (ks.map fun k => s.message.take k).flatten ++ s.message)

/-- R149(b): the bytes an EXECUTE that returned NoError has received stand in the response buffer in order: `respLen` of
them for Receive, none otherwise. -/
def Obligations.ReturnedExecuteStoredTheResponse : Prop :=
  ∀ (prm : Params) (s t : State) (n : Nat), s.quiet = true → s.placeOk = true → Memory.wf s.mem = true →
    s.st = .startAddr → runWith prm n s = .next t → t.st = .idle → t.result = 0 →
    let got := (traceWith prm n s).filterMap receivedByte
    (s.w.d.direction ≠ 1 → got = [] ∧ ∀ x : Half, t.memRead x = s.memRead x) ∧
    (s.w.d.direction = 1 → got.length = s.w.d.respLen.toNat ∧
      (∀ k : Nat, k < s.w.d.respLen.toNat → got[k]? = some (t.memRead (s.w.d.respPtr + BitVec.ofNat 16 k))) ∧
      ∀ x : Half, (∀ k : Nat, k < s.w.d.respLen.toNat → x ≠ s.w.d.respPtr + BitVec.ofNat 16 k) →
        t.memRead x = s.memRead x)

/-- R149(d): the STARTs an EXECUTE that returned NoError has requested: one for a transmit phase, one for a receive
phase, one for each NACK observed. -/
def Obligations.ReturnedExecuteCountsItsStarts : Prop :=
  ∀ (prm : Params) (s t : State) (n : Nat), s.quiet = true → s.placeOk = true → s.st = .startAddr →
    runWith prm n s = .next t → t.st = .idle → t.result = 0 →
    (traceWith prm n s).countP isAssertStart =
      (if 0 < s.w.d.outLen.toNat then 1 else 0) + (if s.w.d.direction = 1 then 1 else 0) +
        (traceWith prm n s).countP isNackSeen

/-- R149, R135: an EXECUTE that returned NackLimitReached observed ten NACKs with no WriteTx among them: its trace ends
in a part without a WriteTx that holds exactly ten. -/
def Obligations.NackLimitNeedsTenNacksInARow : Prop :=
  ∀ (prm : Params) (s t : State) (n : Nat), s.quiet = true → s.placeOk = true → s.st = .startAddr →
    runWith prm n s = .next t → t.st = .idle → t.result = 4 →
    ∃ before after, traceWith prm n s = before ++ after ∧ after.countP isWriteTx = 0 ∧
      after.countP isNackSeen = 10

/-- R134, R150, R167, R228: with no bus event to come and no flag set, EXECUTE polls for ever: after any number of steps
it is still in S_TX with `BUSY` = 1, and nothing but the returned value has changed. -/
def Obligations.TransmitPollsForEverWithoutEvents : Prop :=
  ∀ (prm : Params) (s : State) (n : Nat), s.turns = [] → s.st = .txPoll → s.busy = true →
    (s.regs s.w.u).txrdy = false → (s.regs s.w.u).nack = false →
    ∃ t, runWith prm n s = .next t ∧ t.busy = true ∧ t.st.st = .S_TX ∧
      t.w = s.w ∧ t.units = s.units ∧ t.mem = s.mem ∧ t.active = s.active ∧ t.result = s.result

/-- §8's NACK-abort property (R135, R137, R170, R171): with a slave on the unit that acknowledges no address (`NackAll`,
whatever its `dataAck` and `rx` are, which R171 does not give: log entry 20) and no stale `TXRDY`, an EXECUTE that
passed its entry checks with a message of any length above 0 returns NackLimitReached within 35 steps, after exactly ten
START requests, ten NACK observations and one STOP, the unit inactive and held; no byte was written. -/
def Obligations.NackAllSlaveEndsInTheAbort : Prop :=
  ∀ (prm : Params) (s : State) (other : RefSlave) (dataAck : Nat → Nat → Bool) (rx : List Byte), s.turns = [] →
    s.placeOk = true → s.unitOk s.w.u = true →
    s.st = .startAddr → 0 < s.w.d.outLen.toNat → (s.regs s.w.u).txrdy = false →
    let u := s.w.u
    ∃ y, runSlaved prm 35
        { slaves := ({ primary := other, secondary := other } : PerUnit RefSlave).set u
            (RefSlave.new (fun _ => false) dataAck rx), machine := s }
        = .next y ∧
      y.machine.result = 4 ∧ y.machine.st = .idle ∧ y.machine.busy = false ∧ y.machine.w.nackCount = 10 ∧
      y.machine.active.get u = false ∧ (y.machine.regs u).swrst = true ∧ (y.slaves.get u).starts = 10 ∧
      (y.slaves.get u).stops = 1 ∧ (y.slaves.get u).log = []

/-- §8's transmit scenario for a message of any length above 0 (R131 to R133, R144 to R146, R170): EXECUTE of a valid
Transmit Descriptor of an active unit, with the slave `AckAll` on the unit, is accepted and returns NoError; the slave
saw exactly the message in order, one START and one STOP. -/
def Obligations.AckAllSlaveReceivesTheMessage : Prop :=
  ∀ (prm : Params) (s : State) (p : Half) (u : UnitId) (other : RefSlave) (rx : List Byte), s.turns = [] →
    s.inv = true → s.busy = false → s.st = .idle → p ≠ 0 → s.active.get u = true →
    let d := s.descriptorAt p
    d.valid = 0x01 → d.interfaceId = u.bit.setWidth 8 → d.direction = 0 → 0 < d.outLen.toNat →
    ∃ t n y, exec (.execute p) s = .next t ∧
      runSlaved prm n
        { slaves := ({ primary := other, secondary := other } : PerUnit RefSlave).set u (RefSlave.ackAll rx), machine := t }
        = .next y ∧
      y.machine.result = 0 ∧ y.machine.busy = false ∧ y.machine.st = .idle ∧ y.machine.mem = s.mem ∧
      (y.slaves.get u).log = (List.range d.outLen.toNat).map (fun k => s.memRead (d.outPtr + BitVec.ofNat 16 k)) ∧
      (y.slaves.get u).starts = 1 ∧ (y.slaves.get u).stops = 1

/-- §8's round-trip property (R138 to R141, R144 to R146, R170): EXECUTE of a valid Receive Descriptor of an active unit
with no stale `RXRDY`, with a slave `AckAll` on the unit that has the bytes to send, is accepted and returns NoError with
the response buffer holding exactly those bytes in order, after one STOP. -/
def Obligations.AckAllSlaveFillsTheResponse : Prop :=
  ∀ (prm : Params) (s : State) (p : Half) (u : UnitId) (other : RefSlave) (rx : List Byte), s.turns = [] →
    s.inv = true → s.busy = false → s.st = .idle → p ≠ 0 → s.active.get u = true → (s.regs u).rxrdy = false →
    let d := s.descriptorAt p
    d.valid = 0x01 → d.interfaceId = u.bit.setWidth 8 → d.direction = 1 → d.respLen.toNat ≤ rx.length →
    ∃ t n y, exec (.execute p) s = .next t ∧
      runSlaved prm n
        { slaves := ({ primary := other, secondary := other } : PerUnit RefSlave).set u (RefSlave.ackAll rx), machine := t }
        = .next y ∧
      y.machine.result = 0 ∧ y.machine.busy = false ∧ y.machine.st = .idle ∧ (y.slaves.get u).stops = 1 ∧
      ∀ k : Nat, k < d.respLen.toNat → rx[k]? = some (y.machine.memRead (d.respPtr + BitVec.ofNat 16 k))

/-- R223: under `RestartMessage` a slave that acknowledges the address and the first `k` bytes and NACKs byte `k + 1`
after every START, `k` at least 1 and at least one byte to follow, keeps EXECUTE in S_TX for ever: `BUSY` is 1 after any
number of steps. (R171's `NackSecondAfterStart` is the case `k` = 1, log entry 20.) -/
def Obligations.RestartMessageCanLivelock : Prop :=
  ∀ (nackCheck : Bool) (s : State) (n k : Nat) (other : RefSlave) (rx : List Byte), s.turns = [] → s.placeOk = true →
    s.unitOk s.w.u = true → s.busy = true → s.st = .startAddr → 1 ≤ k → k + 2 ≤ s.w.d.outLen.toNat →
    ∃ y, runSlaved { nackPolicy := .restartMessage, rxNackCheck := nackCheck } n
        { slaves := ({ primary := other, secondary := other } : PerUnit RefSlave).set s.w.u
            (RefSlave.new (fun _ => true) (fun _ since => since != k + 1) rx), machine := s } = .next y ∧
      y.machine.busy = true ∧ (y.machine.st.st = .S_START ∨ y.machine.st.st = .S_TX)
end

