-- ==== Sys2Proof/Laws/Decode.lean ====
section
/-! SUPPORT. Access words and byte order: taking the fields of a word apart and putting them together again. -/

namespace Sys2Proof

/-- The value of a 16-bit operand from its bytes. -/
theorem le16_toNat (lo hi : Byte) : (le16 lo hi).toNat = hi.toNat * 256 + lo.toNat := by
  have h := BitVec.toNat_append hi lo
  rw [← Nat.shiftLeft_add_eq_or_of_lt lo.isLt, Nat.shiftLeft_eq] at h
  exact h

@[simp] theorem lowByte_le16 (lo hi : Byte) : lowByte (le16 lo hi) = lo := by
  apply BitVec.eq_of_toNat_eq
  have h := lo.isLt
  rw [lowByte, BitVec.toNat_setWidth, le16_toNat]
  omega

@[simp] theorem highByte_le16 (lo hi : Byte) : highByte (le16 lo hi) = hi := by
  apply BitVec.eq_of_toNat_eq
  have h1 := lo.isLt
  have h2 := hi.isLt
  rw [highByte, BitVec.toNat_setWidth, BitVec.toNat_ushiftRight, le16_toNat, Nat.shiftRight_eq_div_pow]
  omega

@[simp] theorem le16_low_high (h : Half) : le16 (lowByte h) (highByte h) = h := by
  apply BitVec.eq_of_toNat_eq
  have h1 := h.isLt
  rw [le16_toNat, lowByte, highByte, BitVec.toNat_setWidth, BitVec.toNat_setWidth, BitVec.toNat_ushiftRight,
    Nat.shiftRight_eq_div_pow]
  omega

@[simp] theorem AccessKind.ofBits_bits (k : AccessKind) : AccessKind.ofBits k.bits = k := by cases k <;> rfl

@[simp] theorem UnitReg.ofBits_bits (r : UnitReg) : UnitReg.ofBits r.bits = some r := by cases r <;> rfl

@[simp] theorem UnitId.ofBit_bit (u : UnitId) : UnitId.ofBit u.bit = u := by cases u <;> rfl

@[simp] theorem AccessKind.bits_ofBits (b : BitVec 2) : (AccessKind.ofBits b).bits = b := by revert b; decide

theorem UnitReg.bits_ofBits {b : BitVec 4} {r : UnitReg} (h : UnitReg.ofBits b = some r) : r.bits = b := by
  revert h
  revert b
  cases r <;> decide

@[simp] theorem UnitId.bit_ofBit (b : BitVec 1) : (UnitId.ofBit b).bit = b := by revert b; decide

/-- The value of a word from its fields. -/
theorem word_toNat (k : BitVec 2) (u : BitVec 1) (r : BitVec 4) (d : Byte) :
    (k ++ (0 : BitVec 1) ++ u ++ r ++ d : Half).toNat =
      k.toNat * 16384 + u.toNat * 4096 + r.toNat * 256 + d.toNat := by
  have e1 := BitVec.toNat_append (k ++ (0 : BitVec 1) ++ u ++ r) d
  have e2 := BitVec.toNat_append (k ++ (0 : BitVec 1) ++ u) r
  have e3 := BitVec.toNat_append (k ++ (0 : BitVec 1)) u
  have e4 := BitVec.toNat_append k (0 : BitVec 1)
  rw [← Nat.shiftLeft_add_eq_or_of_lt (BitVec.isLt _), Nat.shiftLeft_eq] at e1 e2 e3 e4
  have e5 : (0 : BitVec 1).toNat = 0 := rfl
  refine e1.trans ?_
  rw [e2, e3, e4, e5]
  omega

/-- The fields of a word built from fields. -/
theorem word_fields (k : BitVec 2) (u : BitVec 1) (r : BitVec 4) (d : Byte) :
    let w : Half := k ++ (0 : BitVec 1) ++ u ++ r ++ d
    w.getLsbD 13 = false ∧ w.extractLsb' 14 2 = k ∧ w.extractLsb' 12 1 = u ∧ w.extractLsb' 8 4 = r ∧
      w.extractLsb' 0 8 = d := by
  intro w
  have hw : w.toNat = k.toNat * 16384 + u.toNat * 4096 + r.toNat * 256 + d.toNat := word_toNat k u r d
  have hk := k.isLt
  have hu := u.isLt
  have hr := r.isLt
  have hd := d.isLt
  refine ⟨?_, ?_, ?_, ?_, ?_⟩
  · rw [BitVec.getLsbD, hw, Nat.testBit_eq_decide_div_mod_eq]
    simp only [decide_eq_false_iff_not]
    omega
  all_goals
    apply BitVec.eq_of_toNat_eq
    rw [BitVec.extractLsb'_toNat, hw, Nat.shiftRight_eq_div_pow]
    omega

/-- A word is built from its fields, if its bit 13 is 0. -/
theorem word_of_fields (w : Half) (h : w.getLsbD 13 = false) :
    (w.extractLsb' 14 2 ++ (0 : BitVec 1) ++ w.extractLsb' 12 1 ++ w.extractLsb' 8 4 ++ w.extractLsb' 0 8 : Half) = w := by
  apply BitVec.eq_of_toNat_eq
  rw [word_toNat]
  rw [BitVec.getLsbD, Nat.testBit_eq_decide_div_mod_eq] at h
  simp only [decide_eq_false_iff_not] at h
  have hw := w.isLt
  simp only [BitVec.extractLsb'_toNat, Nat.shiftRight_eq_div_pow]
  omega

/-- Taking an access's word apart gives the access. -/
@[simp] theorem Access.ofWord_word (a : Access) : Access.ofWord a.word = .ok a := by
  obtain ⟨h1, h2, h3, h4, h5⟩ := word_fields a.kind.bits a.unit.bit a.reg.bits a.data
  simp only [Access.ofWord, Access.word, h1, h2, h3, h4, h5, Bool.false_eq_true, if_false, UnitReg.ofBits_bits,
    AccessKind.ofBits_bits, UnitId.ofBit_bit]

/-- A word that can be taken apart is the word of the access it gives. -/
theorem Access.word_of_ofWord {w : Half} {a : Access} (h : Access.ofWord w = .ok a) :
    a.word = w ∧ w.getLsbD 13 = false ∧ w.extractLsb' 8 4 = a.reg.bits := by
  unfold Access.ofWord at h
  by_cases h13 : w.getLsbD 13 = true
  · simp [h13] at h
  · have h13' : w.getLsbD 13 = false := by simpa using h13
    simp only [h13'] at h
    cases hr : UnitReg.ofBits (w.extractLsb' 8 4) with
    | none => simp [hr] at h
    | some reg =>
      simp only [hr] at h
      cases h
      have hb := UnitReg.bits_ofBits hr
      refine ⟨?_, h13', hb.symm⟩
      simp only [Access.word, AccessKind.bits_ofBits, UnitId.bit_ofBit, hb]
      exact word_of_fields w h13'

end Sys2Proof
end

