-- ==== Sys2Proof/Laws/State.lean ====
section
/-! SUPPORT. The small laws of the state: one lemma per field for each update of the state, and what reading a unit's
half after replacing it gives. -/

namespace Sys2Proof

@[simp] theorem PerUnit.get_set_same {α : Type} (p : PerUnit α) (u : UnitId) (a : α) : (p.set u a).get u = a := by
  cases u <;> rfl

theorem PerUnit.get_set_other {α : Type} (p : PerUnit α) {u v : UnitId} (a : α) (h : v ≠ u) :
    (p.set u a).get v = p.get v := by
  cases u <;> cases v <;> first | rfl | exact absurd rfl h

@[simp] theorem PerUnit.set_get {α : Type} (p : PerUnit α) (u : UnitId) : p.set u (p.get u) = p := by
  cases u <;> rfl

@[simp] theorem PerUnit.set_set {α : Type} (p : PerUnit α) (u : UnitId) (a b : α) : (p.set u a).set u b = p.set u b := by
  cases u <;> rfl

namespace Machine

section
variable (s : State) (u : UnitId) (r : UnitRegs)
@[simp] theorem State.setRegs_w : (s.setRegs u r).w = s.w := rfl
@[simp] theorem State.setRegs_st : (s.setRegs u r).st = s.st := rfl
@[simp] theorem State.setRegs_active : (s.setRegs u r).active = s.active := rfl
@[simp] theorem State.setRegs_busy : (s.setRegs u r).busy = s.busy := rfl
@[simp] theorem State.setRegs_result : (s.setRegs u r).result = s.result := rfl
@[simp] theorem State.setRegs_units : (s.setRegs u r).units = s.units.set u r := rfl
@[simp] theorem State.setRegs_mem : (s.setRegs u r).mem = s.mem := rfl
@[simp] theorem State.setRegs_ret : (s.setRegs u r).ret = s.ret := rfl
@[simp] theorem State.setRegs_turns : (s.setRegs u r).turns = s.turns := rfl
@[simp] theorem State.setRegs_regs : (s.setRegs u r).regs u = r := by simp [State.regs]
theorem State.setRegs_regs_other {v : UnitId} (h : v ≠ u) : (s.setRegs u r).regs v = s.regs v := by
  simp [State.regs, PerUnit.get_set_other _ _ h]
@[simp] theorem State.setRegs_setRegs (r' : UnitRegs) : (s.setRegs u r').setRegs u r = s.setRegs u r := by
  simp [State.setRegs]
@[simp] theorem State.setRegs_memRead (a : Half) : (s.setRegs u r).memRead a = s.memRead a := rfl
end

section
variable (s : State) (u : UnitId) (b : Bool)
@[simp] theorem State.setActive_w : (s.setActive u b).w = s.w := rfl
@[simp] theorem State.setActive_st : (s.setActive u b).st = s.st := rfl
@[simp] theorem State.setActive_active : (s.setActive u b).active = s.active.set u b := rfl
@[simp] theorem State.setActive_busy : (s.setActive u b).busy = s.busy := rfl
@[simp] theorem State.setActive_result : (s.setActive u b).result = s.result := rfl
@[simp] theorem State.setActive_units : (s.setActive u b).units = s.units := rfl
@[simp] theorem State.setActive_mem : (s.setActive u b).mem = s.mem := rfl
@[simp] theorem State.setActive_ret : (s.setActive u b).ret = s.ret := rfl
@[simp] theorem State.setActive_turns : (s.setActive u b).turns = s.turns := rfl
@[simp] theorem State.setActive_regs (v : UnitId) : (s.setActive u b).regs v = s.regs v := rfl
@[simp] theorem State.setActive_memRead (a : Half) : (s.setActive u b).memRead a = s.memRead a := rfl
end

section
variable (s : State) (b : Byte)
@[simp] theorem State.setRet_w : (s.setRet b).w = s.w := rfl
@[simp] theorem State.setRet_st : (s.setRet b).st = s.st := rfl
@[simp] theorem State.setRet_active : (s.setRet b).active = s.active := rfl
@[simp] theorem State.setRet_busy : (s.setRet b).busy = s.busy := rfl
@[simp] theorem State.setRet_result : (s.setRet b).result = s.result := rfl
@[simp] theorem State.setRet_units : (s.setRet b).units = s.units := rfl
@[simp] theorem State.setRet_mem : (s.setRet b).mem = s.mem := rfl
@[simp] theorem State.setRet_ret : (s.setRet b).ret = b := rfl
@[simp] theorem State.setRet_turns : (s.setRet b).turns = s.turns := rfl
@[simp] theorem State.setRet_regs (v : UnitId) : (s.setRet b).regs v = s.regs v := rfl
@[simp] theorem State.setRet_memRead (a : Half) : (s.setRet b).memRead a = s.memRead a := rfl
end

section
variable (s : State) (e : EngineState)
@[simp] theorem State.setSt_w : (s.setSt e).w = s.w := rfl
@[simp] theorem State.setSt_st : (s.setSt e).st = e := rfl
@[simp] theorem State.setSt_active : (s.setSt e).active = s.active := rfl
@[simp] theorem State.setSt_busy : (s.setSt e).busy = s.busy := rfl
@[simp] theorem State.setSt_result : (s.setSt e).result = s.result := rfl
@[simp] theorem State.setSt_units : (s.setSt e).units = s.units := rfl
@[simp] theorem State.setSt_mem : (s.setSt e).mem = s.mem := rfl
@[simp] theorem State.setSt_ret : (s.setSt e).ret = s.ret := rfl
@[simp] theorem State.setSt_turns : (s.setSt e).turns = s.turns := rfl
@[simp] theorem State.setSt_regs (v : UnitId) : (s.setSt e).regs v = s.regs v := rfl
@[simp] theorem State.setSt_memRead (a : Half) : (s.setSt e).memRead a = s.memRead a := rfl
end

section
variable (s : State) (a : Half) (b : Byte)
@[simp] theorem State.memWrite_w : (s.memWrite a b).w = s.w := rfl
@[simp] theorem State.memWrite_st : (s.memWrite a b).st = s.st := rfl
@[simp] theorem State.memWrite_active : (s.memWrite a b).active = s.active := rfl
@[simp] theorem State.memWrite_busy : (s.memWrite a b).busy = s.busy := rfl
@[simp] theorem State.memWrite_result : (s.memWrite a b).result = s.result := rfl
@[simp] theorem State.memWrite_units : (s.memWrite a b).units = s.units := rfl
@[simp] theorem State.memWrite_mem : (s.memWrite a b).mem = Memory.writeAt s.mem a.toNat b := rfl
@[simp] theorem State.memWrite_ret : (s.memWrite a b).ret = s.ret := rfl
@[simp] theorem State.memWrite_turns : (s.memWrite a b).turns = s.turns := rfl
@[simp] theorem State.memWrite_regs (v : UnitId) : (s.memWrite a b).regs v = s.regs v := rfl
end

section
variable (s : State) (c : ErrorCode)
@[simp] theorem State.raise_w : (s.raise c).w = s.w := rfl
@[simp] theorem State.raise_st : (s.raise c).st = .idle := rfl
@[simp] theorem State.raise_active : (s.raise c).active = s.active := rfl
@[simp] theorem State.raise_busy : (s.raise c).busy = false := rfl
@[simp] theorem State.raise_result : (s.raise c).result = c.byte := rfl
@[simp] theorem State.raise_units : (s.raise c).units = s.units := rfl
@[simp] theorem State.raise_mem : (s.raise c).mem = s.mem := rfl
@[simp] theorem State.raise_ret : (s.raise c).ret = s.ret := rfl
@[simp] theorem State.raise_turns : (s.raise c).turns = s.turns := rfl
@[simp] theorem State.raise_regs (v : UnitId) : (s.raise c).regs v = s.regs v := rfl
@[simp] theorem State.raise_memRead (a : Half) : (s.raise c).memRead a = s.memRead a := rfl
end

theorem State.setRegs_self (s : State) (u : UnitId) : s.setRegs u (s.regs u) = s := by
  simp [State.setRegs, State.regs]

end Machine

end Sys2Proof
end

