-- ==== Sys2Proof/Laws/Ops.lean ====
section
/-! SUPPORT. What the accesses of the unit registers do, and with them the answer of each primitive: an access changes
one register file (and, for a read, the returned value) and nothing else (R50, R51, R100). -/

namespace Sys2Proof.Machine

/-! ## An access changes one register file -/

section
variable (s : State) (k : AccessKind) (u : UnitId) (reg : UnitReg) (d : Byte)
@[simp] theorem State.poke_w : (s.poke k u reg d).w = s.w := rfl
@[simp] theorem State.poke_st : (s.poke k u reg d).st = s.st := rfl
@[simp] theorem State.poke_active : (s.poke k u reg d).active = s.active := rfl
@[simp] theorem State.poke_busy : (s.poke k u reg d).busy = s.busy := rfl
@[simp] theorem State.poke_result : (s.poke k u reg d).result = s.result := rfl
@[simp] theorem State.poke_mem : (s.poke k u reg d).mem = s.mem := rfl
@[simp] theorem State.poke_ret : (s.poke k u reg d).ret = s.ret := rfl
@[simp] theorem State.poke_turns : (s.poke k u reg d).turns = s.turns := rfl
@[simp] theorem State.peek_w : (s.peek u reg d).w = s.w := rfl
@[simp] theorem State.peek_st : (s.peek u reg d).st = s.st := rfl
@[simp] theorem State.peek_active : (s.peek u reg d).active = s.active := rfl
@[simp] theorem State.peek_busy : (s.peek u reg d).busy = s.busy := rfl
@[simp] theorem State.peek_result : (s.peek u reg d).result = s.result := rfl
@[simp] theorem State.peek_mem : (s.peek u reg d).mem = s.mem := rfl
@[simp] theorem State.peek_ret : (s.peek u reg d).ret = (s.regs u).get reg &&& d := rfl
@[simp] theorem State.peek_turns : (s.peek u reg d).turns = s.turns := rfl
end

/-! ## The register file after each access the engine issues -/

theorem UnitRegs.set_ctl1 (r : UnitRegs) {d : Byte} (h1 : d.getLsbD 1 = false) (hd : d &&& 0xD7 = d) :
    r.access .SET .CTL1 d = { r with ctl1 := r.ctl1 ||| d } := by
  simp only [UnitRegs.access, UnitRegs.put, UnitRegs.get, UnitRegs.sideEffect, accessValue, writableMask, h1, hd]
  rfl

theorem UnitRegs.set_ctl1_start (r : UnitRegs) :
    r.access .SET .CTL1 0x02 = { r with ctl1 := r.ctl1 ||| 0x02, ifg := r.ifg &&& ~~~nackMask } := rfl

theorem UnitRegs.clr_ctl1 (r : UnitRegs) {d : Byte} (hd : d &&& 0xD7 = d) :
    r.access .CLR .CTL1 d = { r with ctl1 := r.ctl1 &&& ~~~d } := by
  simp only [UnitRegs.access, UnitRegs.put, UnitRegs.get, UnitRegs.sideEffect, accessValue, writableMask, hd]

theorem UnitRegs.wr_ctl0_zero (r : UnitRegs) : r.access .WR .CTL0 0x00 = { r with ctl0 := r.ctl0 &&& 0xF0 } := by
  simp [UnitRegs.access, UnitRegs.put, UnitRegs.get, UnitRegs.sideEffect, accessValue, writableMask]

theorem UnitRegs.wr_ctl1_zero (r : UnitRegs) : r.access .WR .CTL1 0x00 = { r with ctl1 := r.ctl1 &&& 0x28 } := by
  simp [UnitRegs.access, UnitRegs.put, UnitRegs.get, UnitRegs.sideEffect, accessValue, writableMask]

theorem UnitRegs.set_ctl0 (r : UnitRegs) : r.access .SET .CTL0 0x0F = { r with ctl0 := r.ctl0 ||| 0x0F } := rfl

theorem UnitRegs.set_psel (r : UnitRegs) : r.access .SET .PSEL 0x03 = { r with psel := r.psel ||| 0x03 } := rfl

/-- A write of a register all of whose bits are writable replaces it. -/
theorem accessValue_wr_full (old d : Byte) : (old &&& ~~~(0xFF : Byte)) ||| (d &&& 0xFF) = d := by
  have h : (0xFF : Byte) = BitVec.allOnes 8 := rfl
  rw [h, BitVec.and_allOnes]
  simp

theorem UnitRegs.wr_brl (r : UnitRegs) (d : Byte) : r.access .WR .BRL d = { r with brl := d } := by
  simp only [UnitRegs.access, UnitRegs.put, UnitRegs.get, UnitRegs.sideEffect, accessValue, writableMask,
    accessValue_wr_full]

theorem UnitRegs.wr_brh (r : UnitRegs) (d : Byte) : r.access .WR .BRH d = { r with brh := d } := by
  simp only [UnitRegs.access, UnitRegs.put, UnitRegs.get, UnitRegs.sideEffect, accessValue, writableMask,
    accessValue_wr_full]

theorem UnitRegs.wr_sa (r : UnitRegs) (d : Byte) : r.access .WR .SA d = { r with sa := d } := by
  simp only [UnitRegs.access, UnitRegs.put, UnitRegs.get, UnitRegs.sideEffect, accessValue, writableMask,
    accessValue_wr_full]

theorem UnitRegs.wr_txbuf (r : UnitRegs) (d : Byte) :
    r.access .WR .TXBUF d = { r with txbuf := d, ifg := r.ifg &&& ~~~txrdyMask } := by
  simp only [UnitRegs.access, UnitRegs.put, UnitRegs.get, UnitRegs.sideEffect, accessValue, writableMask,
    accessValue_wr_full, UnitRegs.clearIfg]

theorem UnitRegs.clr_ifg (r : UnitRegs) : r.access .CLR .IFG 0x02 = { r with ifg := r.ifg &&& ~~~txrdyMask } := rfl

theorem UnitRegs.rd_ifg (r : UnitRegs) (m : Byte) : r.access .RD .IFG m = r := rfl

theorem UnitRegs.rd_ctl1 (r : UnitRegs) (m : Byte) : r.access .RD .CTL1 m = r := rfl

theorem UnitRegs.rd_rxbuf (r : UnitRegs) (m : Byte) :
    r.access .RD .RXBUF m = { r with ifg := r.ifg &&& ~~~rxrdyMask } := rfl

/-- The mask SelectClock sets has only the two `SSEL` bits (R106). -/
theorem clockMask_bits (c : Byte) :
    ((c &&& 0x03) <<< 6).getLsbD 1 = false ∧ ((c &&& 0x03) <<< 6) &&& 0xD7 = (c &&& 0x03) <<< 6 := by
  revert c
  decide

/-! ## The answer of each primitive -/

section
variable (s : State) (u : UnitId) (b : Byte)

theorem exec_disableUnit :
    exec (.disableUnit u) s = .next ((s.setRegs u { s.regs u with ctl1 := (s.regs u).ctl1 ||| 0x01 }).setActive u false) := by
  simp only [exec, execDisableUnit, State.poke, UnitRegs.set_ctl1 _ (d := 0x01) rfl rfl]

theorem exec_enableUnit :
    exec (.enableUnit u) s = .next ((s.setRegs u { s.regs u with ctl1 := (s.regs u).ctl1 &&& ~~~0x01 }).setActive u true) := by
  simp only [exec, execEnableUnit, State.poke, UnitRegs.clr_ctl1 _ (d := 0x01) rfl]

theorem exec_zeroCtl0 : exec (.zeroCtl0 u) s = .next (s.setRegs u { s.regs u with ctl0 := (s.regs u).ctl0 &&& 0xF0 }) := by
  simp only [exec, execZeroCtl0, State.poke, UnitRegs.wr_ctl0_zero]

theorem exec_zeroCtl1 : exec (.zeroCtl1 u) s = .next (s.setRegs u { s.regs u with ctl1 := (s.regs u).ctl1 &&& 0x28 }) := by
  simp only [exec, execZeroCtl1, State.poke, UnitRegs.wr_ctl1_zero]

theorem exec_setModes : exec (.setModes u) s = .next (s.setRegs u { s.regs u with ctl0 := (s.regs u).ctl0 ||| 0x0F }) := by
  simp only [exec, execSetModes, State.poke, UnitRegs.set_ctl0]

theorem exec_selectClock :
    exec (.selectClock u b) s =
      .next (s.setRegs u { s.regs u with ctl1 := (s.regs u).ctl1 ||| (b &&& 0x03) <<< 6 }) := by
  simp only [exec, execSelectClock, State.poke, UnitRegs.set_ctl1 _ (clockMask_bits b).1 (clockMask_bits b).2]

theorem exec_routePins : exec (.routePins u) s = .next (s.setRegs u { s.regs u with psel := (s.regs u).psel ||| 0x03 }) := by
  simp only [exec, execRoutePins, State.poke, UnitRegs.set_psel]

theorem exec_writeBaudLow : exec (.writeBaudLow u b) s = .next (s.setRegs u { s.regs u with brl := b }) := by
  simp only [exec, execWriteBaudLow, State.poke, UnitRegs.wr_brl]

theorem exec_writeBaudHigh : exec (.writeBaudHigh u b) s = .next (s.setRegs u { s.regs u with brh := b }) := by
  simp only [exec, execWriteBaudHigh, State.poke, UnitRegs.wr_brh]

theorem exec_writeSlaveAddr : exec (.writeSlaveAddr u b) s = .next (s.setRegs u { s.regs u with sa := b }) := by
  simp only [exec, execWriteSlaveAddr, State.poke, UnitRegs.wr_sa]

theorem exec_setTR : exec (.setTR u) s = .next (s.setRegs u { s.regs u with ctl1 := (s.regs u).ctl1 ||| 0x10 }) := by
  simp only [exec, execSetTR, State.poke, UnitRegs.set_ctl1 _ (d := 0x10) rfl rfl]

theorem exec_clearTR : exec (.clearTR u) s = .next (s.setRegs u { s.regs u with ctl1 := (s.regs u).ctl1 &&& ~~~0x10 }) := by
  simp only [exec, execClearTR, State.poke, UnitRegs.clr_ctl1 _ (d := 0x10) rfl]

theorem exec_assertStart :
    exec (.assertStart u) s =
      .next (s.setRegs u { s.regs u with ctl1 := (s.regs u).ctl1 ||| 0x02, ifg := (s.regs u).ifg &&& ~~~nackMask }) := by
  simp only [exec, execAssertStart, State.poke, UnitRegs.set_ctl1_start]

theorem exec_assertStop : exec (.assertStop u) s = .next (s.setRegs u { s.regs u with ctl1 := (s.regs u).ctl1 ||| 0x04 }) := by
  simp only [exec, execAssertStop, State.poke, UnitRegs.set_ctl1 _ (d := 0x04) rfl rfl]

theorem exec_readTxRdy : exec (.readTxRdy u) s = .next (s.setRet ((s.regs u).ifg &&& 0x02)) := by
  simp only [exec, execReadTxRdy, State.peek, UnitRegs.rd_ifg, State.setRegs_self, UnitRegs.get]

theorem exec_readRxRdy : exec (.readRxRdy u) s = .next (s.setRet ((s.regs u).ifg &&& 0x01)) := by
  simp only [exec, execReadRxRdy, State.peek, UnitRegs.rd_ifg, State.setRegs_self, UnitRegs.get]

theorem exec_readNack : exec (.readNack u) s = .next (s.setRet ((s.regs u).ifg &&& 0x04)) := by
  simp only [exec, execReadNack, State.peek, UnitRegs.rd_ifg, State.setRegs_self, UnitRegs.get]

theorem exec_readSttPending : exec (.readSttPending u) s = .next (s.setRet ((s.regs u).ctl1 &&& 0x02)) := by
  simp only [exec, execReadSttPending, State.peek, UnitRegs.rd_ctl1, State.setRegs_self, UnitRegs.get]

theorem exec_readStpPending : exec (.readStpPending u) s = .next (s.setRet ((s.regs u).ctl1 &&& 0x04)) := by
  simp only [exec, execReadStpPending, State.peek, UnitRegs.rd_ctl1, State.setRegs_self, UnitRegs.get]

theorem exec_clearTxRdy :
    exec (.clearTxRdy u) s = .next (s.setRegs u { s.regs u with ifg := (s.regs u).ifg &&& ~~~txrdyMask }) := by
  simp only [exec, execClearTxRdy, State.poke, UnitRegs.clr_ifg]

theorem exec_writeTx :
    exec (.writeTx u b) s =
      .next (s.setRegs u { s.regs u with txbuf := b, ifg := (s.regs u).ifg &&& ~~~txrdyMask }) := by
  simp only [exec, execWriteTx, State.poke, UnitRegs.wr_txbuf]

theorem exec_readRx :
    exec (.readRx u) s =
      .next ((s.setRegs u { s.regs u with ifg := (s.regs u).ifg &&& ~~~rxrdyMask }).setRet (s.regs u).rxbuf) := by
  have h : (s.regs u).rxbuf &&& 0xFF = (s.regs u).rxbuf := BitVec.and_allOnes
  simp only [exec, execReadRx, State.peek, UnitRegs.rd_rxbuf, UnitRegs.get, h]

end

/-- A primitive's answer is the state with its unit's register file and `ACTIVE` bit and the returned value replaced,
and nothing else; it never fails (R100). -/
theorem exec_primitive {i : Instr} {a : Access} (h : i.access = some a) (s : State) :
    ∃ r b x, exec i s = .next (((s.setRegs a.unit r).setActive a.unit b).setRet x) := by
  have poke : ∀ k u reg d, ∃ r b x, Host.Outcome.next (φ := Fault) (ρ := Refusal) (s.poke k u reg d) =
      .next (((s.setRegs u r).setActive u b).setRet x) := by
    intro k u reg d
    refine ⟨(s.regs u).access k reg d, s.active.get u, s.ret, ?_⟩
    cases u <;> rfl
  have peek : ∀ u reg d, ∃ r b x, Host.Outcome.next (φ := Fault) (ρ := Refusal) (s.peek u reg d) =
      .next (((s.setRegs u r).setActive u b).setRet x) := by
    intro u reg d
    refine ⟨(s.regs u).access .RD reg d, s.active.get u, (s.regs u).get reg &&& d, ?_⟩
    cases u <;> rfl
  cases i <;> simp only [Instr.access, Option.some.injEq, reduceCtorEq] at h <;> subst h <;>
    first
    | exact poke _ _ _ _
    | exact peek _ _ _
    | exact ⟨_, _, s.ret, rfl⟩

end Sys2Proof.Machine
end

