-- ==== Sys2Proof/Laws/Engine.lean ====
section
/-! SUPPORT. What one step of the engine does at each place of each rule, said once: the register access of that place
with its effect, the engine's working registers and the next place. -/

namespace Sys2Proof.Machine

/-- The primitive the engine issues is an access of the unit its command addresses. -/
theorem State.issue_access {s : State} {i : Instr} (h : s.issue = some i) :
    ∃ a, i.access = some a ∧ a.unit = s.w.u := by
  unfold State.issue at h
  cases hst : s.st <;> simp only [hst, Option.some.injEq, reduceCtorEq] at h
  case act k => cases k <;> subst h <;> exact ⟨_, rfl, rfl⟩
  case stop => split at h <;> cases h; exact ⟨_, rfl, rfl⟩
  all_goals subst h; exact ⟨_, rfl, rfl⟩

section
variable (p : Params) {s : State}

theorem engineStep_startAddr (h : s.st = .startAddr) :
    engineStep p s = .next ((s.setRegs s.w.u { s.regs s.w.u with sa := lowByte s.w.d.slaveAddress }).setSt (if 0 < s.w.d.outLen then .startTr else afterTransmit s.w)) := by
  simp only [engineStep, State.issue, h, exec_writeSlaveAddr, State.advance, State.setRegs_st, State.afterAddr, State.setRegs_w]
  rfl

theorem engineStep_startTr (h : s.st = .startTr) :
    engineStep p s = .next ((s.setRegs s.w.u { s.regs s.w.u with ctl1 := (s.regs s.w.u).ctl1 ||| 0x10 }).setSt .startStt) := by
  simp only [engineStep, State.issue, h, exec_setTR, State.advance, State.setRegs_st]

theorem engineStep_startStt (h : s.st = .startStt) :
    engineStep p s = .next ((s.setRegs s.w.u { s.regs s.w.u with ctl1 := (s.regs s.w.u).ctl1 ||| 0x02, ifg := (s.regs s.w.u).ifg &&& ~~~nackMask }).setSt .txPoll) := by
  simp only [engineStep, State.issue, h, exec_assertStart, State.advance, State.setRegs_st]

theorem engineStep_txPoll (h : s.st = .txPoll) :
    engineStep p s = .next ((s.setRet ((s.regs s.w.u).ifg &&& 0x02)).setSt (if (s.regs s.w.u).ifg &&& 0x02 = 0 then .txNack else .txFetch)) := by
  simp only [engineStep, State.issue, h, exec_readTxRdy, State.advance, State.setRet_st, State.setRet_ret]
  rfl

theorem engineStep_txWrite (h : s.st = .txWrite) :
    engineStep p s = .next ((s.setRegs s.w.u { s.regs s.w.u with txbuf := s.ret, ifg := (s.regs s.w.u).ifg &&& ~~~txrdyMask }).afterWrite) := by
  simp only [engineStep, State.issue, h, exec_writeTx, State.advance, State.setRegs_st]

theorem engineStep_txClear (h : s.st = .txClear) :
    engineStep p s = .next ((s.setRegs s.w.u { s.regs s.w.u with ifg := (s.regs s.w.u).ifg &&& ~~~txrdyMask }).setSt (afterTransmit s.w)) := by
  simp only [engineStep, State.issue, h, exec_clearTxRdy, State.advance, State.setRegs_st, State.setRegs_w]

theorem engineStep_txNack (h : s.st = .txNack) :
    engineStep p s = .next ((s.setRet ((s.regs s.w.u).ifg &&& 0x04)).afterTxNack p) := by
  simp only [engineStep, State.issue, h, exec_readNack, State.advance, State.setRet_st]

theorem engineStep_txRestart (h : s.st = .txRestart) :
    engineStep p s = .next ((s.setRegs s.w.u { s.regs s.w.u with ctl1 := (s.regs s.w.u).ctl1 ||| 0x02, ifg := (s.regs s.w.u).ifg &&& ~~~nackMask }).setSt .txPoll) := by
  simp only [engineStep, State.issue, h, exec_assertStart, State.advance, State.setRegs_st]

theorem engineStep_txStop (h : s.st = .txStop) :
    engineStep p s = .next ((s.setRegs s.w.u { s.regs s.w.u with ctl1 := (s.regs s.w.u).ctl1 ||| 0x04 }).setSt .txDisable) := by
  simp only [engineStep, State.issue, h, exec_assertStop, State.advance, State.setRegs_st]

theorem engineStep_txDisable (h : s.st = .txDisable) :
    engineStep p s = .next (((s.setRegs s.w.u { s.regs s.w.u with ctl1 := (s.regs s.w.u).ctl1 ||| 0x01 }).setActive s.w.u false).setSt .txRaise) := by
  simp only [engineStep, State.issue, h, exec_disableUnit, State.advance, State.setRegs_st, State.setActive_st]

theorem engineStep_prepTr (h : s.st = .prepTr) :
    engineStep p s = .next ((s.setRegs s.w.u { s.regs s.w.u with ctl1 := (s.regs s.w.u).ctl1 &&& ~~~0x10 }).setSt .prepClear) := by
  simp only [engineStep, State.issue, h, exec_clearTR, State.advance, State.setRegs_st]

theorem engineStep_prepClear (h : s.st = .prepClear) :
    engineStep p s = .next ((s.setRegs s.w.u { s.regs s.w.u with ifg := (s.regs s.w.u).ifg &&& ~~~txrdyMask }).setSt .prepStt) := by
  simp only [engineStep, State.issue, h, exec_clearTxRdy, State.advance, State.setRegs_st]

theorem engineStep_prepStt (h : s.st = .prepStt) :
    engineStep p s = .next ((s.setRegs s.w.u { s.regs s.w.u with ctl1 := (s.regs s.w.u).ctl1 ||| 0x02, ifg := (s.regs s.w.u).ifg &&& ~~~nackMask }).setSt (if s.w.d.respLen = 1 then .sttPoll else rxLoop s.w)) := by
  simp only [engineStep, State.issue, h, exec_assertStart, State.advance, State.setRegs_st, State.setRegs_w]
  rfl

theorem engineStep_sttPoll (h : s.st = .sttPoll) :
    engineStep p s = .next ((s.setRet ((s.regs s.w.u).ctl1 &&& 0x02)).setSt (if (s.regs s.w.u).ctl1 &&& 0x02 = 0 then .sttStop else .sttPoll)) := by
  simp only [engineStep, State.issue, h, exec_readSttPending, State.advance, State.setRet_st, State.setRet_ret]
  rfl

theorem engineStep_sttStop (h : s.st = .sttStop) :
    engineStep p s = .next ((s.setRegs s.w.u { s.regs s.w.u with ctl1 := (s.regs s.w.u).ctl1 ||| 0x04 }).afterEarlyStop) := by
  simp only [engineStep, State.issue, h, exec_assertStop, State.advance, State.setRegs_st]

theorem engineStep_rxPoll (h : s.st = .rxPoll) :
    engineStep p s = .next ((s.setRet ((s.regs s.w.u).ifg &&& 0x01)).setSt
      (if (s.regs s.w.u).ifg &&& 0x01 = 0 then (if p.rxNackCheck then .rxNack else .rxPoll) else .rxRead)) := by
  simp only [engineStep, State.issue, h, exec_readRxRdy, State.advance, State.setRet_st, State.setRet_ret]
  rfl

theorem engineStep_rxRead (h : s.st = .rxRead) :
    engineStep p s = .next (((s.setRegs s.w.u { s.regs s.w.u with ifg := (s.regs s.w.u).ifg &&& ~~~rxrdyMask }).setRet (s.regs s.w.u).rxbuf).setSt .rxStore) := by
  simp only [engineStep, State.issue, h, exec_readRx, State.advance, State.setRegs_st, State.setRet_st]

theorem engineStep_rxNack (h : s.st = .rxNack) :
    engineStep p s = .next ((s.setRet ((s.regs s.w.u).ifg &&& 0x04)).afterRxNack) := by
  simp only [engineStep, State.issue, h, exec_readNack, State.advance, State.setRet_st]

theorem engineStep_rxRestart (h : s.st = .rxRestart) :
    engineStep p s = .next ((s.setRegs s.w.u { s.regs s.w.u with ctl1 := (s.regs s.w.u).ctl1 ||| 0x02, ifg := (s.regs s.w.u).ifg &&& ~~~nackMask }).setSt .rxPoll) := by
  simp only [engineStep, State.issue, h, exec_assertStart, State.advance, State.setRegs_st]

theorem engineStep_rxStop (h : s.st = .rxStop) :
    engineStep p s = .next ((s.setRegs s.w.u { s.regs s.w.u with ctl1 := (s.regs s.w.u).ctl1 ||| 0x04 }).setSt .rxDisable) := by
  simp only [engineStep, State.issue, h, exec_assertStop, State.advance, State.setRegs_st]

theorem engineStep_rxDisable (h : s.st = .rxDisable) :
    engineStep p s = .next (((s.setRegs s.w.u { s.regs s.w.u with ctl1 := (s.regs s.w.u).ctl1 ||| 0x01 }).setActive s.w.u false).setSt .rxRaise) := by
  simp only [engineStep, State.issue, h, exec_disableUnit, State.advance, State.setRegs_st, State.setActive_st]

theorem engineStep_stpPoll (h : s.st = .stpPoll) :
    engineStep p s = .next ((s.setRet ((s.regs s.w.u).ctl1 &&& 0x04)).setSt (if (s.regs s.w.u).ctl1 &&& 0x04 = 0 then .stpRaise else .stpPoll)) := by
  simp only [engineStep, State.issue, h, exec_readStpPending, State.advance, State.setRet_st, State.setRet_ret]
  rfl

theorem engineStep_stop (h : s.st = .stop) (hs : s.w.stopIssued = false) :
    engineStep p s = .next ((s.setRegs s.w.u { s.regs s.w.u with ctl1 := (s.regs s.w.u).ctl1 ||| 0x04 }).setSt .stpPoll) := by
  simp only [engineStep, State.issue, h, hs, exec_assertStop, State.advance, State.setRegs_st, Bool.false_eq_true, if_false]

theorem engineStep_stopDone (h : s.st = .stop) (hs : s.w.stopIssued = true) :
    engineStep p s = .next (s.raise .noError) := by
  simp only [engineStep, State.issue, h, hs, State.internal, if_true]

theorem engineStep_hold (h : s.st = .act .hold) :
    engineStep p s = .next (((s.setRegs s.w.u { s.regs s.w.u with ctl1 := (s.regs s.w.u).ctl1 ||| 0x01 }).setActive s.w.u false).setSt (.act .zero0)) := by
  simp only [engineStep, State.issue, h, ActStep.instr, exec_disableUnit, State.advance, State.setRegs_st, State.setActive_st, ActStep.next]

theorem engineStep_zero0 (h : s.st = .act .zero0) :
    engineStep p s = .next ((s.setRegs s.w.u { s.regs s.w.u with ctl0 := (s.regs s.w.u).ctl0 &&& 0xF0 }).setSt (.act .zero1)) := by
  simp only [engineStep, State.issue, h, ActStep.instr, exec_zeroCtl0, State.advance, State.setRegs_st, ActStep.next]

theorem engineStep_zero1 (h : s.st = .act .zero1) :
    engineStep p s = .next ((s.setRegs s.w.u { s.regs s.w.u with ctl1 := (s.regs s.w.u).ctl1 &&& 0x28 }).setSt (.act .holdAgain)) := by
  simp only [engineStep, State.issue, h, ActStep.instr, exec_zeroCtl1, State.advance, State.setRegs_st, ActStep.next]

theorem engineStep_holdAgain (h : s.st = .act .holdAgain) :
    engineStep p s = .next (((s.setRegs s.w.u { s.regs s.w.u with ctl1 := (s.regs s.w.u).ctl1 ||| 0x01 }).setActive s.w.u false).setSt (.act .modes)) := by
  simp only [engineStep, State.issue, h, ActStep.instr, exec_disableUnit, State.advance, State.setRegs_st, State.setActive_st, ActStep.next]

theorem engineStep_modes (h : s.st = .act .modes) :
    engineStep p s = .next ((s.setRegs s.w.u { s.regs s.w.u with ctl0 := (s.regs s.w.u).ctl0 ||| 0x0F }).setSt (.act .clock)) := by
  simp only [engineStep, State.issue, h, ActStep.instr, exec_setModes, State.advance, State.setRegs_st, ActStep.next]

theorem engineStep_clock (h : s.st = .act .clock) :
    engineStep p s = .next ((s.setRegs s.w.u { s.regs s.w.u with ctl1 := (s.regs s.w.u).ctl1 ||| (s.w.c.clockSource &&& 0x03 &&& 0x03) <<< 6 }).setSt (.act .pins)) := by
  simp only [engineStep, State.issue, h, ActStep.instr, exec_selectClock, State.advance, State.setRegs_st, ActStep.next]

theorem engineStep_pins (h : s.st = .act .pins) :
    engineStep p s = .next ((s.setRegs s.w.u { s.regs s.w.u with psel := (s.regs s.w.u).psel ||| 0x03 }).setSt (.act .baudLow)) := by
  simp only [engineStep, State.issue, h, ActStep.instr, exec_routePins, State.advance, State.setRegs_st, ActStep.next]

theorem engineStep_baudLow (h : s.st = .act .baudLow) :
    engineStep p s = .next ((s.setRegs s.w.u { s.regs s.w.u with brl := lowByte s.w.c.baudDivider }).setSt (.act .baudHigh)) := by
  simp only [engineStep, State.issue, h, ActStep.instr, exec_writeBaudLow, State.advance, State.setRegs_st, ActStep.next]

theorem engineStep_baudHigh (h : s.st = .act .baudHigh) :
    engineStep p s = .next ((s.setRegs s.w.u { s.regs s.w.u with brh := highByte s.w.c.baudDivider }).setSt (.act .release)) := by
  simp only [engineStep, State.issue, h, ActStep.instr, exec_writeBaudHigh, State.advance, State.setRegs_st, ActStep.next]

theorem engineStep_release (h : s.st = .act .release) :
    engineStep p s = .next (((s.setRegs s.w.u { s.regs s.w.u with ctl1 := (s.regs s.w.u).ctl1 &&& ~~~0x01 }).setActive s.w.u true).setSt (.actRaise .noError)) := by
  simp only [engineStep, State.issue, h, ActStep.instr, exec_enableUnit, State.advance, State.setRegs_st, State.setActive_st, ActStep.next]

theorem engineStep_entryLoad {ptr : Half} {got : List Byte} (h : s.st = .entryLoad ptr got) : engineStep p s = .next (s.loadDescriptor ptr got) := by
  simp only [engineStep, State.issue, h, State.internal]

theorem engineStep_entryRaise {code : ErrorCode} (h : s.st = .entryRaise code) : engineStep p s = .next (s.raise code) := by
  simp only [engineStep, State.issue, h, State.internal]

theorem engineStep_txFetch (h : s.st = .txFetch) : engineStep p s = .next (s.fetchByte) := by
  simp only [engineStep, State.issue, h, State.internal]

theorem engineStep_txRaise (h : s.st = .txRaise) : engineStep p s = .next (s.raise .nackLimitReached) := by
  simp only [engineStep, State.issue, h, State.internal]

theorem engineStep_rxStore (h : s.st = .rxStore) : engineStep p s = .next (s.storeByte) := by
  simp only [engineStep, State.issue, h, State.internal]

theorem engineStep_rxRaise (h : s.st = .rxRaise) : engineStep p s = .next (s.raise .nackLimitReached) := by
  simp only [engineStep, State.issue, h, State.internal]

theorem engineStep_stpRaise (h : s.st = .stpRaise) : engineStep p s = .next (s.raise .noError) := by
  simp only [engineStep, State.issue, h, State.internal]

theorem engineStep_actLoad {ptr : Half} {got : List Byte} (h : s.st = .actLoad ptr got) : engineStep p s = .next (s.loadConfig ptr got) := by
  simp only [engineStep, State.issue, h, State.internal]

theorem engineStep_actRaise {code : ErrorCode} (h : s.st = .actRaise code) : engineStep p s = .next (s.raise code) := by
  simp only [engineStep, State.issue, h, State.internal]

theorem engineStep_build {writes : List (Half × Byte)} {code : ErrorCode} (h : s.st = .build writes code) : engineStep p s = .next (s.buildStep writes code) := by
  simp only [engineStep, State.issue, h, State.internal]

theorem engineStep_idle (h : s.st = .idle) : engineStep p s = .next (s) := by
  simp only [engineStep, State.issue, h, State.internal]

end

end Sys2Proof.Machine
end

