-- ==== Sys2Proof/Laws/Memory.lean ====
section
/-! SUPPORT. Host memory: a read after a write, and the canonical form, which every write keeps. -/

namespace Sys2Proof.Machine

/-- A canonical list is canonical from any lower bound. -/
theorem Memory.wfFrom_mono {lo lo' : Nat} {m : List Host.Cell} (h : Memory.wfFrom lo m = true) (hle : lo' ≤ lo) :
    Memory.wfFrom lo' m = true := by
  cases m with
  | nil => rfl
  | cons c rest =>
    simp only [Memory.wfFrom, Bool.and_eq_true, decide_eq_true_eq] at h ⊢
    exact ⟨⟨⟨Nat.le_trans hle h.1.1.1, h.1.1.2⟩, h.1.2⟩, h.2⟩

/-- Below the first entry every byte reads as unlisted. -/
theorem Memory.readAt_below {lo a : Nat} {m : List Host.Cell} (h : Memory.wfFrom lo m = true) (ha : a < lo) :
    Memory.readAt m a = Memory.unlisted := by
  induction m generalizing lo with
  | nil => rfl
  | cons c rest ih =>
    simp only [Memory.wfFrom, Bool.and_eq_true, decide_eq_true_eq] at h
    have hne : c.1 ≠ a := by omega
    simp only [Memory.readAt, if_neg hne]
    exact ih h.2 (by omega)

/-- A write keeps the canonical form. -/
theorem Memory.writeAt_wfFrom {lo a : Nat} {m : List Host.Cell} (b : Byte) (h : Memory.wfFrom lo m = true)
    (hlo : lo ≤ a) (ha : a < Memory.size) : Memory.wfFrom lo (Memory.writeAt m a b) = true := by
  induction m generalizing lo with
  | nil =>
    by_cases hb : b = Memory.unlisted
    · simp [Memory.writeAt, hb, Memory.wfFrom]
    · simp [Memory.writeAt, hb, Memory.wfFrom, hlo, ha]
  | cons c rest ih =>
    obtain ⟨k, v⟩ := c
    have h0 := h
    simp only [Memory.wfFrom, Bool.and_eq_true, decide_eq_true_eq] at h
    obtain ⟨⟨⟨hk, hks⟩, hv⟩, hrest⟩ := h
    rcases Nat.lt_trichotomy a k with hak | hak | hak
    · by_cases hb : b = Memory.unlisted
      · simpa [Memory.writeAt, hak, hb] using h0
      · have hk' : a + 1 ≤ k := hak
        simp [Memory.writeAt, hak, hb, Memory.wfFrom, hlo, ha, hk', hks, hrest]
        simpa using hv
    · subst hak
      by_cases hb : b = Memory.unlisted
      · simp [Memory.writeAt, hb]
        exact Memory.wfFrom_mono hrest (by omega)
      · simp [Memory.writeAt, hb, Memory.wfFrom, hk, hks, hrest]
    · have h1 : ¬ a < k := by omega
      have h2 : a ≠ k := by omega
      simp only [Memory.writeAt, h1, h2, if_false, Memory.wfFrom, Bool.and_eq_true, decide_eq_true_eq]
      exact ⟨⟨⟨hk, hks⟩, hv⟩, ih hrest hak⟩

/-- A read of the address just written gives the byte written. -/
theorem Memory.readAt_writeAt_same {lo a : Nat} {m : List Host.Cell} (b : Byte) (h : Memory.wfFrom lo m = true) :
    Memory.readAt (Memory.writeAt m a b) a = b := by
  induction m generalizing lo with
  | nil =>
    by_cases hb : b = Memory.unlisted
    · simp [Memory.writeAt, hb, Memory.readAt]
    · simp [Memory.writeAt, hb, Memory.readAt]
  | cons c rest ih =>
    obtain ⟨k, v⟩ := c
    have h0 := h
    simp only [Memory.wfFrom, Bool.and_eq_true, decide_eq_true_eq] at h
    rcases Nat.lt_trichotomy a k with hak | hak | hak
    · by_cases hb : b = Memory.unlisted
      · simp only [Memory.writeAt, hak, hb, if_true]
        exact Memory.readAt_below (Memory.wfFrom_mono (lo := k) (lo' := k) (by
          simp only [Memory.wfFrom, Bool.and_eq_true, decide_eq_true_eq]; exact ⟨⟨⟨Nat.le_refl _, h.1.1.2⟩, h.1.2⟩, h.2⟩)
          (Nat.le_refl _)) hak
      · simp [Memory.writeAt, hak, hb, Memory.readAt]
    · subst hak
      by_cases hb : b = Memory.unlisted
      · simp only [Memory.writeAt, Nat.lt_irrefl, hb, if_true, if_false]
        exact Memory.readAt_below h.2 (Nat.lt_succ_self a)
      · simp [Memory.writeAt, hb, Memory.readAt]
    · have h1 : ¬ a < k := by omega
      have h2 : a ≠ k := by omega
      simp only [Memory.writeAt, h1, h2, if_false, Memory.readAt, if_neg (Ne.symm h2)]
      exact ih h.2

/-- A read of any other address gives what it gave before the write. -/
theorem Memory.readAt_writeAt_other {lo a a' : Nat} {m : List Host.Cell} (b : Byte) (h : Memory.wfFrom lo m = true)
    (hne : a' ≠ a) : Memory.readAt (Memory.writeAt m a b) a' = Memory.readAt m a' := by
  induction m generalizing lo with
  | nil =>
    by_cases hb : b = Memory.unlisted
    · simp [Memory.writeAt, hb]
    · simp [Memory.writeAt, hb, Memory.readAt, Ne.symm hne]
  | cons c rest ih =>
    obtain ⟨k, v⟩ := c
    simp only [Memory.wfFrom, Bool.and_eq_true, decide_eq_true_eq] at h
    rcases Nat.lt_trichotomy a k with hak | hak | hak
    · by_cases hb : b = Memory.unlisted
      · simp [Memory.writeAt, hak, hb]
      · simp [Memory.writeAt, hak, hb, Memory.readAt, Ne.symm hne]
    · subst hak
      by_cases hb : b = Memory.unlisted
      · simp [Memory.writeAt, hb, Memory.readAt, Ne.symm hne]
      · simp [Memory.writeAt, hb, Memory.readAt, Ne.symm hne]
    · have h1 : ¬ a < k := by omega
      have h2 : a ≠ k := by omega
      by_cases hk : k = a'
      · subst hk
        simp [Memory.writeAt, h1, h2, Memory.readAt]
      · simp only [Memory.writeAt, h1, h2, if_false, Memory.readAt, if_neg hk]
        exact ih h.2

/-! ## The same for the state -/

theorem State.memWrite_wf {s : State} (a : Half) (b : Byte) (h : Memory.wf s.mem = true) :
    Memory.wf (s.memWrite a b).mem = true :=
  Memory.writeAt_wfFrom b h (Nat.zero_le _) a.isLt

theorem State.memRead_memWrite_same {s : State} (a : Half) (b : Byte) (h : Memory.wf s.mem = true) :
    (s.memWrite a b).memRead a = b :=
  Memory.readAt_writeAt_same b h

theorem State.memRead_memWrite_other {s : State} {a a' : Half} (b : Byte) (h : Memory.wf s.mem = true) (hne : a' ≠ a) :
    (s.memWrite a b).memRead a' = s.memRead a' :=
  Memory.readAt_writeAt_other b h fun e => hne (BitVec.eq_of_toNat_eq e)

theorem Memory.reset_wf : Memory.wf State.reset.mem = true := rfl

end Sys2Proof.Machine
end

