-- ==== Sys2Proof/Laws/PerInstr.lean ====
section
/-! SUPPORT. What holds of every instruction as syntax, one lemma per constructor: its bits carry the fixed bits that its
row of spec/opcode_table.json has (`match` under `mask`), and a command's frame has the row's `length_bytes`. -/

namespace Sys2Proof.Laws.TableRow

/-- A frame agrees with a command's row: the opcode byte and the length. -/
def frameRow (i : Instr) (opcode : Byte) (length : Nat) : Prop :=
  ∃ rest, encode i = .frame (opcode :: rest) ∧ (opcode :: rest).length = length

/-- An access word agrees with a primitive's row: the fixed bits under the mask. -/
def wordRow (i : Instr) (fixed mask : Half) : Prop := ∃ w, encode i = .access w ∧ w &&& mask = fixed

/-- The instruction's bits agree with its row of spec/opcode_table.json. -/
def Statement : Instr → Prop
  | i@(.buildcfg _ _ _ _) => frameRow i 0x01 7
  | i@(.activate _) => frameRow i 0x02 3
  | i@(.buildtxn _ _ _ _ _ _ _ _) => frameRow i 0x03 15
  | i@(.execute _) => frameRow i 0x04 3
  | i@(.disableUnit _) => wordRow i 0x8101 0xEFFF
  | i@(.enableUnit _) => wordRow i 0xC101 0xEFFF
  | i@(.zeroCtl0 _) => wordRow i 0x4000 0xEFFF
  | i@(.zeroCtl1 _) => wordRow i 0x4100 0xEFFF
  | i@(.setModes _) => wordRow i 0x800F 0xEFFF
  | i@(.selectClock _ _) => wordRow i 0x8100 0xEF3F
  | i@(.routePins _) => wordRow i 0x8803 0xEFFF
  | i@(.writeBaudLow _ _) => wordRow i 0x4200 0xEF00
  | i@(.writeBaudHigh _ _) => wordRow i 0x4300 0xEF00
  | i@(.writeSlaveAddr _ _) => wordRow i 0x4400 0xEF00
  | i@(.setTR _) => wordRow i 0x8110 0xEFFF
  | i@(.clearTR _) => wordRow i 0xC110 0xEFFF
  | i@(.assertStart _) => wordRow i 0x8102 0xEFFF
  | i@(.assertStop _) => wordRow i 0x8104 0xEFFF
  | i@(.readTxRdy _) => wordRow i 0x0502 0xEFFF
  | i@(.readRxRdy _) => wordRow i 0x0501 0xEFFF
  | i@(.readNack _) => wordRow i 0x0504 0xEFFF
  | i@(.readSttPending _) => wordRow i 0x0102 0xEFFF
  | i@(.readStpPending _) => wordRow i 0x0104 0xEFFF
  | i@(.clearTxRdy _) => wordRow i 0xC502 0xEFFF
  | i@(.writeTx _ _) => wordRow i 0x4600 0xEF00
  | i@(.readRx _) => wordRow i 0x07FF 0xEFFF

theorem buildcfg (p : Half) (id clk : Byte) (div : Half) : Statement (.buildcfg p id clk div) := ⟨_, rfl, rfl⟩

theorem activate (p : Half) : Statement (.activate p) := ⟨_, rfl, rfl⟩

theorem buildtxn (p : Half) (id : Byte) (outPtr outLen addr : Half) (dir : Byte) (respLen respPtr : Half) :
    Statement (.buildtxn p id outPtr outLen addr dir respLen respPtr) := ⟨_, rfl, rfl⟩

theorem execute (p : Half) : Statement (.execute p) := ⟨_, rfl, rfl⟩

theorem disableUnit (u : UnitId) : Statement (.disableUnit u) := ⟨_, rfl, by cases u <;> rfl⟩

theorem enableUnit (u : UnitId) : Statement (.enableUnit u) := ⟨_, rfl, by cases u <;> rfl⟩

theorem zeroCtl0 (u : UnitId) : Statement (.zeroCtl0 u) := ⟨_, rfl, by cases u <;> rfl⟩

theorem zeroCtl1 (u : UnitId) : Statement (.zeroCtl1 u) := ⟨_, rfl, by cases u <;> rfl⟩

theorem setModes (u : UnitId) : Statement (.setModes u) := ⟨_, rfl, by cases u <;> rfl⟩

theorem selectClock (u : UnitId) (c : Byte) : Statement (.selectClock u c) := by
  refine ⟨_, rfl, ?_⟩
  cases u <;> revert c <;> decide

theorem routePins (u : UnitId) : Statement (.routePins u) := ⟨_, rfl, by cases u <;> rfl⟩

theorem writeBaudLow (u : UnitId) (b : Byte) : Statement (.writeBaudLow u b) := by
  refine ⟨_, rfl, ?_⟩
  cases u <;> revert b <;> decide

theorem writeBaudHigh (u : UnitId) (b : Byte) : Statement (.writeBaudHigh u b) := by
  refine ⟨_, rfl, ?_⟩
  cases u <;> revert b <;> decide

theorem writeSlaveAddr (u : UnitId) (b : Byte) : Statement (.writeSlaveAddr u b) := by
  refine ⟨_, rfl, ?_⟩
  cases u <;> revert b <;> decide

theorem setTR (u : UnitId) : Statement (.setTR u) := ⟨_, rfl, by cases u <;> rfl⟩

theorem clearTR (u : UnitId) : Statement (.clearTR u) := ⟨_, rfl, by cases u <;> rfl⟩

theorem assertStart (u : UnitId) : Statement (.assertStart u) := ⟨_, rfl, by cases u <;> rfl⟩

theorem assertStop (u : UnitId) : Statement (.assertStop u) := ⟨_, rfl, by cases u <;> rfl⟩

theorem readTxRdy (u : UnitId) : Statement (.readTxRdy u) := ⟨_, rfl, by cases u <;> rfl⟩

theorem readRxRdy (u : UnitId) : Statement (.readRxRdy u) := ⟨_, rfl, by cases u <;> rfl⟩

theorem readNack (u : UnitId) : Statement (.readNack u) := ⟨_, rfl, by cases u <;> rfl⟩

theorem readSttPending (u : UnitId) : Statement (.readSttPending u) := ⟨_, rfl, by cases u <;> rfl⟩

theorem readStpPending (u : UnitId) : Statement (.readStpPending u) := ⟨_, rfl, by cases u <;> rfl⟩

theorem clearTxRdy (u : UnitId) : Statement (.clearTxRdy u) := ⟨_, rfl, by cases u <;> rfl⟩

theorem writeTx (u : UnitId) (b : Byte) : Statement (.writeTx u b) := by
  refine ⟨_, rfl, ?_⟩
  cases u <;> revert b <;> decide

theorem readRx (u : UnitId) : Statement (.readRx u) := ⟨_, rfl, by cases u <;> rfl⟩

end Sys2Proof.Laws.TableRow
end

