-- ==== Sys2Proof/Laws/Step.lean ====
section
/-! SUPPORT. What a step can do, said once: the engine's step always gives a next state, a frame that decodes is a
command whose meaning is an acceptance, and the ways `stepWith` gives a next state; with the laws of runs and traces. -/

namespace Sys2Proof.Machine

/-! ## The engine's step -/

/-- The engine's step never stops: every primitive completes (R100), and the other steps are plain. -/
theorem engineStep_total (p : Params) (s : State) : ∃ t, engineStep p s = .next t := by
  unfold engineStep
  cases h : s.issue with
  | none => exact ⟨_, rfl⟩
  | some i =>
    obtain ⟨a, ha, -⟩ := State.issue_access h
    obtain ⟨r, b, x, he⟩ := exec_primitive ha s
    simp only [he]
    exact ⟨_, rfl⟩

/-! ## A bus agent's turn -/

/-- A bus agent's turn replaces the registers of its unit and nothing else (R166): by the event's effect if it is
enabled, by themselves if it is not. -/
theorem State.busEvent_eq (s : State) (u : UnitId) (e : BusEvent) :
    s.busEvent u e = s.setRegs u (if e.enabled (s.regs u) = true then e.effect (s.regs u) else s.regs u) := by
  unfold State.busEvent
  split
  · rfl
  · exact (State.setRegs_self s u).symm

/-- What an event leaves of its unit's registers: a flag is only ever set, a request bit only ever cleared, and only
`CTL1`, `IFG` and `RXBUF` change (R161 to R166). -/
theorem BusEvent.effect_frame (e : BusEvent) (r : UnitRegs) :
    (e.effect r).ctl0 = r.ctl0 ∧ (e.effect r).brl = r.brl ∧ (e.effect r).brh = r.brh ∧ (e.effect r).sa = r.sa ∧
    (e.effect r).txbuf = r.txbuf ∧ (e.effect r).psel = r.psel ∧ (e.effect r).swrst = r.swrst ∧
    (e.effect r).tr = r.tr ∧ (e.effect r).ssel = r.ssel := by
  have h1 : ∀ x : Byte, (x &&& ~~~txsttMask).getLsbD 0 = x.getLsbD 0 ∧ (x &&& ~~~txsttMask).getLsbD 4 = x.getLsbD 4 ∧
      (x &&& ~~~txsttMask).extractLsb' 6 2 = x.extractLsb' 6 2 := by decide
  have h2 : ∀ x : Byte, (x &&& ~~~txstpMask).getLsbD 0 = x.getLsbD 0 ∧ (x &&& ~~~txstpMask).getLsbD 4 = x.getLsbD 4 ∧
      (x &&& ~~~txstpMask).extractLsb' 6 2 = x.extractLsb' 6 2 := by decide
  cases e with
  | startDone => exact ⟨rfl, rfl, rfl, rfl, rfl, rfl, (h1 r.ctl1).1, (h1 r.ctl1).2.1, (h1 r.ctl1).2.2⟩
  | stopDone => exact ⟨rfl, rfl, rfl, rfl, rfl, rfl, (h2 r.ctl1).1, (h2 r.ctl1).2.1, (h2 r.ctl1).2.2⟩
  | txReady => exact ⟨rfl, rfl, rfl, rfl, rfl, rfl, rfl, rfl, rfl⟩
  | nack => exact ⟨rfl, rfl, rfl, rfl, rfl, rfl, rfl, rfl, rfl⟩
  | rxByte b => exact ⟨rfl, rfl, rfl, rfl, rfl, rfl, rfl, rfl, rfl⟩

/-! ## The submit turn -/

/-- A frame that decodes is one of the four commands, and the meaning of a command is its acceptance at the first place
of its rule. -/
theorem decodeFrame_command {bytes : List Byte} {i : Instr} (h : decodeFrame bytes = .ok i) :
    ∃ first, (∀ s : State, exec i s = s.accept first) ∧
      ((∃ p id clk div, i = .buildcfg p id clk div ∧ first = buildcfgPlan p id clk div) ∨
       (∃ p, i = .activate p ∧ first = if isNull p then .actRaise .notInitialized else .actLoad p []) ∨
       (∃ p id o n a d r q, i = .buildtxn p id o n a d r q ∧ first = buildtxnPlan p id o n a d r q) ∨
       (∃ p, i = .execute p ∧ first = if isNull p then .entryRaise .notInitialized else .entryLoad p [])) := by
  unfold decodeFrame at h
  split at h
  · cases h
  · split at h
    · split at h
      · cases h; exact ⟨_, fun _ => rfl, .inl ⟨_, _, _, _, rfl, rfl⟩⟩
      · cases h
    · split at h
      · split at h
        · cases h; exact ⟨_, fun _ => rfl, .inr (.inl ⟨_, rfl, rfl⟩)⟩
        · cases h
      · split at h
        · split at h
          · cases h; exact ⟨_, fun _ => rfl, .inr (.inr (.inl ⟨_, _, _, _, _, _, _, _, rfl, rfl⟩))⟩
          · cases h
        · split at h
          · split at h
            · cases h; exact ⟨_, fun _ => rfl, .inr (.inr (.inr ⟨_, rfl, rfl⟩))⟩
            · cases h
          · cases h

/-- BUILDCFG's first place is S_BUILD with a code of its own. -/
theorem buildcfgPlan_build (p : Half) (id clk : Byte) (div : Half) :
    ∃ ws c, buildcfgPlan p id clk div = .build ws c ∧ (c = .noError ∨ c = .badParameters) := by
  unfold buildcfgPlan
  split
  · exact ⟨_, _, rfl, .inr rfl⟩
  · split
    · exact ⟨_, _, rfl, .inr rfl⟩
    · split
      · exact ⟨_, _, rfl, .inr rfl⟩
      · exact ⟨_, _, rfl, .inl rfl⟩

/-- BUILDTXN's first place is S_BUILD with a code of its own. -/
theorem buildtxnPlan_build (p : Half) (id : Byte) (o n a : Half) (d : Byte) (r q : Half) :
    ∃ ws c, buildtxnPlan p id o n a d r q = .build ws c ∧ (c = .noError ∨ c = .badParameters) := by
  unfold buildtxnPlan
  split
  · exact ⟨_, _, rfl, .inr rfl⟩
  · split
    · exact ⟨_, _, rfl, .inr rfl⟩
    · exact ⟨_, _, rfl, .inl rfl⟩

/-- An acceptance that gives a next state found `BUSY` = 0 and changed `BUSY` and `st` alone. -/
theorem State.accept_next {s t : State} {first : EngineState} (h : s.accept first = .next t) :
    s.busy = false ∧ t = { s with busy := true, st := first } := by
  unfold State.accept at h
  cases hb : s.busy with
  | true => simp [hb] at h
  | false => simp [hb] at h; exact ⟨rfl, h.symm⟩

/-! ## The step -/

/-- The ways a step gives a next state, one for each agent. -/
theorem stepWith_next {p : Params} {s t : State} (h : stepWith p s = .next t) :
    (s.turns = [] ∧ engineStep p s = .next t) ∨
    (∃ rest, s.turns = .engine :: rest ∧ engineStep p { s with turns := rest } = .next t) ∨
    (∃ u e rest, s.turns = .bus u e :: rest ∧ t = { s with turns := rest }.busEvent u e) ∨
    (∃ bytes rest i first, s.turns = .submit bytes :: rest ∧ decodeFrame bytes = .ok i ∧
      (∀ s' : State, exec i s' = s'.accept first) ∧ s.busy = false ∧
      t = { s with turns := rest, busy := true, st := first }) ∨
    (∃ a b rest, s.turns = .hostWrite a b :: rest ∧ s.busy = false ∧ t = { s with turns := rest }.memWrite a b) ∨
    (∃ rest, s.turns = .powerOn :: rest ∧ t = { State.reset with turns := rest }) := by
  unfold stepWith at h
  cases ht : s.turns with
  | nil => exact .inl ⟨rfl, by simpa [ht] using h⟩
  | cons x rest =>
    simp only [ht] at h
    cases x with
    | engine => exact .inr (.inl ⟨rest, rfl, h⟩)
    | bus u e => exact .inr (.inr (.inl ⟨u, e, rest, rfl, by simpa using h.symm⟩))
    | submit bytes =>
      simp only [submitFrame] at h
      cases hd : decodeFrame bytes with
      | error e => simp [hd] at h
      | ok i =>
        obtain ⟨first, hx, -⟩ := decodeFrame_command hd
        simp only [hd, hx] at h
        obtain ⟨hb, rfl⟩ := State.accept_next h
        exact .inr (.inr (.inr (.inl ⟨bytes, rest, i, first, rfl, hd, hx, hb, rfl⟩)))
    | hostWrite a b =>
      simp only [State.hostWrite] at h
      cases hb : s.busy with
      | true => simp [hb] at h
      | false =>
        simp [hb] at h
        exact .inr (.inr (.inr (.inr (.inl ⟨a, b, rest, rfl, rfl, h.symm⟩))))
    | powerOn =>
      simp only [State.powerOn, Host.Outcome.next.injEq] at h
      exact .inr (.inr (.inr (.inr (.inr ⟨rest, rfl, h.symm⟩))))

/-- With no move to come the engine moves. -/
theorem stepWith_engine {p : Params} {s : State} (h : s.turns = []) : stepWith p s = engineStep p s := by
  simp only [stepWith, h]

/-! ## The machine with its slaves -/

/-- With no move to come, a step with slaves is the engine's and the reaction to its access. -/
theorem stepSlaved_engine {p : Params} {x : Slaved} (h : x.machine.turns = []) : stepSlaved p x = stepUnskipped p x := by
  simp only [stepSlaved, State.skipBusTurn, h]

/-- A turn of a bus agent is no move of a slave: it is used up and changes nothing else (R170; log entry 20). -/
theorem stepSlaved_bus {p : Params} {x : Slaved} {u : UnitId} {e : BusEvent} {rest : List Turn}
    (h : x.machine.turns = .bus u e :: rest) :
    stepSlaved p x = .next { x with machine := { x.machine with turns := rest } } := by
  simp only [stepSlaved, State.skipBusTurn, h]

/-! ## Runs and traces -/

theorem runWith_succ (p : Params) (k : Nat) {s t : State} (h : stepWith p s = .next t) :
    runWith p (k + 1) s = runWith p k t := by
  simp only [runWith, h]

theorem runWith_add (p : Params) (m k : Nat) {s t : State} (h : runWith p m s = .next t) :
    runWith p (m + k) s = runWith p k t := by
  induction m generalizing s with
  | zero => cases h; rw [Nat.zero_add]
  | succ m ih =>
    rw [Nat.add_right_comm]
    simp only [runWith] at h ⊢
    cases hs : stepWith p s with
    | next s' => simp only [hs] at h ⊢; exact ih h
    | fault f => simp [hs] at h
    | refused r => simp [hs] at h

theorem traceWith_access (p : Params) (k : Nat) {s t : State} {i : Instr} (h : stepWith p s = .next t)
    (hi : s.pending = some i) : traceWith p (k + 1) s = (i, t.ret) :: traceWith p k t := by
  simp only [traceWith, h, hi]

theorem traceWith_internal (p : Params) (k : Nat) {s t : State} (h : stepWith p s = .next t)
    (hi : s.pending = none) : traceWith p (k + 1) s = traceWith p k t := by
  simp only [traceWith, h, hi]

theorem traceWith_add (p : Params) (m k : Nat) {s t : State} (h : runWith p m s = .next t) :
    traceWith p (m + k) s = traceWith p m s ++ traceWith p k t := by
  induction m generalizing s with
  | zero => cases h; rw [Nat.zero_add]; rfl
  | succ m ih =>
    rw [Nat.add_right_comm]
    simp only [runWith] at h
    simp only [traceWith]
    cases hs : stepWith p s with
    | next s' =>
      simp only [hs] at h ⊢
      cases hp : s.pending with
      | none => exact ih h
      | some i => simp only [List.cons_append, List.cons.injEq, true_and]; exact ih h
    | fault f => simp [hs] at h
    | refused r => simp [hs] at h

end Sys2Proof.Machine
end

