-- ==== Sys2Proof/Laws/Records.lean ====
section
/-! SUPPORT. Records in host memory: what a run of one-byte writes leaves, how a build command's writes run, and what
loading a record latches. -/

namespace Sys2Proof.Machine

/-! ## What the engine makes of an access -/

/-- `advance` changes the four counting registers and `st` alone: the records, the unit, and everything outside the
engine's registers stay. -/
theorem State.advance_eq (s : State) (p : Params) :
    ∃ w st, s.advance p = { s with w := w, st := st } ∧ w.d = s.w.d ∧ w.c = s.w.c ∧ w.u = s.w.u := by
  unfold State.advance
  split <;> try exact ⟨_, _, rfl, rfl, rfl, rfl⟩
  · unfold State.afterTxNack
    split <;> exact ⟨_, _, rfl, rfl, rfl, rfl⟩
  · unfold State.afterRxNack
    split <;> exact ⟨_, _, rfl, rfl, rfl, rfl⟩

/-! ## Runs of one-byte writes -/

/-- A list of one-byte writes, in order. -/
def State.writes (s : State) (ws : List (Half × Byte)) : State := ws.foldl (fun s x => s.memWrite x.1 x.2) s

theorem State.writes_eq (s : State) (ws : List (Half × Byte)) : s.writes ws = { s with mem := (s.writes ws).mem } := by
  induction ws generalizing s with
  | nil => rfl
  | cons x rest ih => exact ih (s.memWrite x.1 x.2)

/-- What the writes leave in memory depends on memory alone. -/
theorem State.writes_mem_congr {s s' : State} (ws : List (Half × Byte)) (h : s.mem = s'.mem) :
    (s.writes ws).mem = (s'.writes ws).mem := by
  induction ws generalizing s s' with
  | nil => exact h
  | cons x rest ih => exact ih (by simp only [State.memWrite_mem, h])

theorem State.writes_wf {s : State} (ws : List (Half × Byte)) (h : Memory.wf s.mem = true) :
    Memory.wf (s.writes ws).mem = true := by
  induction ws generalizing s with
  | nil => exact h
  | cons x rest ih => exact ih (State.memWrite_wf _ _ h)

/-- A byte that none of the writes names reads as before. -/
theorem State.memRead_writes_other {s : State} {ws : List (Half × Byte)} {a : Half} (h : Memory.wf s.mem = true)
    (ha : ∀ x, x ∈ ws → a ≠ x.1) : (s.writes ws).memRead a = s.memRead a := by
  induction ws generalizing s with
  | nil => rfl
  | cons x rest ih =>
    refine (ih (State.memWrite_wf _ _ h) fun y hy => ha y (List.mem_cons_of_mem _ hy)).trans ?_
    exact State.memRead_memWrite_other _ h (ha x List.mem_cons_self)

/-- Addresses count on, modulo 2^16 (R47). -/
theorem half_add_one_add (p : Half) (k : Nat) : p + 1 + BitVec.ofNat 16 k = p + BitVec.ofNat 16 (k + 1) := by
  have h1 : (1 : Half).toNat = 1 := rfl
  apply BitVec.eq_of_toNat_eq
  simp only [BitVec.toNat_add, BitVec.toNat_ofNat, h1]
  omega

/-- An address does not come back to itself before the memory's end. -/
theorem half_ne_add {p : Half} {k : Nat} (h0 : 0 < k) (hk : k < 65536) : p ≠ p + BitVec.ofNat 16 k := by
  intro h
  have hn := congrArg BitVec.toNat h
  simp only [BitVec.toNat_add, BitVec.toNat_ofNat] at hn
  have := p.isLt
  omega

/-- The addresses of consecutive writes. -/
theorem mem_writesAt {p : Half} {l : List Byte} {x : Half × Byte} (h : x ∈ writesAt p l) :
    ∃ k, k < l.length ∧ x.1 = p + BitVec.ofNat 16 k := by
  induction l generalizing p with
  | nil => cases h
  | cons b rest ih =>
    rcases List.mem_cons.1 h with rfl | h
    · exact ⟨0, Nat.succ_pos _, by simp⟩
    · obtain ⟨k, hk, he⟩ := ih h
      refine ⟨k + 1, Nat.succ_lt_succ hk, ?_⟩
      rw [he, half_add_one_add]

/-- Consecutive writes leave byte `k` at address `p + k`, if they do not go round the whole memory. -/
theorem State.memRead_writesAt {s : State} {p : Half} {l : List Byte} {k : Nat} (h : Memory.wf s.mem = true)
    (hl : l.length ≤ 65536) (hk : k < l.length) :
    (s.writes (writesAt p l)).memRead (p + BitVec.ofNat 16 k) = l[k] := by
  induction l generalizing s p k with
  | nil => exact absurd hk (Nat.not_lt_zero _)
  | cons b rest ih =>
    simp only [List.length_cons] at hl hk
    cases k with
    | zero =>
      have hr : (s.writes (writesAt p (b :: rest))).memRead p = (s.memWrite p b).memRead p := by
        refine State.memRead_writes_other (s := s.memWrite p b) (State.memWrite_wf _ _ h) fun x hx => ?_
        obtain ⟨j, hj, he⟩ := mem_writesAt hx
        rw [he, half_add_one_add]
        exact half_ne_add (Nat.succ_pos j) (by omega)
      simp only [List.getElem_cons_zero]
      have h0 : p + BitVec.ofNat 16 0 = p := by simp
      rw [h0, hr]
      exact State.memRead_memWrite_same _ _ h
    | succ k =>
      rw [← half_add_one_add]
      exact ih (s := s.memWrite p b) (State.memWrite_wf _ _ h) (by omega) (by omega)

/-- A build command's writes run in order, one byte a step, then it raises (R81, R83). -/
theorem runWith_build (p : Params) {s : State} {ws : List (Half × Byte)} {c : ErrorCode} (ht : s.turns = [])
    (hst : s.st = .build ws c) : runWith p (ws.length + 1) s = .next ((s.writes ws).raise c) := by
  induction ws generalizing s with
  | nil =>
    rw [runWith_succ p _ ((stepWith_engine ht).trans (engineStep_build p hst))]
    rfl
  | cons x rest ih =>
    rw [runWith_succ p _ ((stepWith_engine ht).trans (engineStep_build p hst))]
    refine (ih (s := (s.memWrite x.1 x.2).setSt (.build rest c)) ht rfl).trans ?_
    have h1 := State.writes_eq ((s.memWrite x.1 x.2).setSt (.build rest c)) rest
    have h2 := State.writes_eq (s.memWrite x.1 x.2) rest
    have h3 := State.writes_mem_congr (s := (s.memWrite x.1 x.2).setSt (.build rest c)) (s' := s.memWrite x.1 x.2) rest rfl
    have h4 : s.writes (x :: rest) = (s.memWrite x.1 x.2).writes rest := rfl
    rw [h4, h1, h2, h3]
    rfl

/-- A build command issues no access. -/
theorem traceWith_build (p : Params) {s : State} {ws : List (Half × Byte)} {c : ErrorCode} (ht : s.turns = [])
    (hst : s.st = .build ws c) : traceWith p (ws.length + 1) s = [] := by
  have hp : ∀ s' : State, s'.turns = [] → ∀ ws', s'.st = .build ws' c → s'.pending = none := by
    intro s' ht' ws' hst'
    simp only [State.pending, ht', State.issue, hst']
  induction ws generalizing s with
  | nil => rw [traceWith_internal p _ ((stepWith_engine ht).trans (engineStep_build p hst)) (hp s ht _ hst)]; rfl
  | cons x rest ih =>
    rw [traceWith_internal p _ ((stepWith_engine ht).trans (engineStep_build p hst)) (hp s ht _ hst)]
    exact ih (s := (s.memWrite x.1 x.2).setSt (.build rest c)) ht rfl

/-! ## Loading a record -/

/-- The Config that ACTIVATE latches is the one that stands at its pointer (R44). -/
theorem runWith_loadConfig (p : Params) {s : State} {ptr : Half} (ht : s.turns = []) (hst : s.st = .actLoad ptr []) :
    runWith p 5 s = .next (({ s with st := .actLoad ptr [s.memRead ptr, s.memRead (ptr + 1), s.memRead (ptr + 2),
      s.memRead (ptr + 3)] } : State).activateChecks (s.configAt ptr)) := by
  obtain ⟨w, st, active, busy, result, units, mem, ret, turns⟩ := s
  cases ht
  cases hst
  simp [runWith, stepWith, engineStep, State.issue, State.internal, State.loadConfig, State.loadNext, configLoadLength,
    State.memRead, State.setSt, ConfigRec.ofBytes, State.configAt, le16]

/-- The Descriptor that EXECUTE latches is the one that stands at its pointer (R45). -/
theorem runWith_loadDescriptor (p : Params) {s : State} {ptr : Half} (ht : s.turns = [])
    (hst : s.st = .entryLoad ptr []) :
    ∃ got, runWith p 13 s =
      .next (({ s with st := .entryLoad ptr got } : State).executeChecks (s.descriptorAt ptr)) := by
  obtain ⟨w, st, active, busy, result, units, mem, ret, turns⟩ := s
  cases ht
  cases hst
  let r := fun k : Half => Memory.readAt mem (ptr + k).toNat
  refine ⟨[Memory.readAt mem ptr.toNat, r 1, r 2, r 3, r 4, r 5, r 6, r 7, r 8, r 9, r 10, r 11], ?_⟩
  simp [runWith, stepWith, engineStep, State.issue, State.internal, State.loadDescriptor, State.loadNext,
    descriptorLoadLength, State.memRead, State.setSt, Descriptor.ofBytes, State.descriptorAt, le16, r]

end Sys2Proof.Machine
end

