-- ==== Sys2Proof/Machine/Assembler.lean ====
section
/-! DEFINITION. The spec's assembler syntax (R72): a command is its mnemonic followed by its operands in frame order,
numbers or names of enumeration members; a primitive is written as its access, `KIND uN REG 0xdd`. A line is given here
as its tokens (log entry 21). -/

namespace Sys2Proof.Machine

/-- An operand of an assembler line: a number, or the name of an enumeration member (R72). -/
inductive AsmOperand where
  | num (n : Nat)
  | name (s : String)
  deriving DecidableEq, Repr

/-- The value of an enumeration member's name (R68). -/
def memberValue (s : String) : Option Nat :=
  if s = "Primary" then some 0
  else if s = "Secondary" then some 1
  else if s = "CLKSRC0" then some 0
  else if s = "CLKSRC1" then some 1
  else if s = "CLKSRC2" then some 2
  else if s = "Transmit" then some 0
  else if s = "Receive" then some 1
  else none

/-- The number an operand stands for. A member's name stands for its number wherever it is written: R72 does not say what
a name of another enumeration is (`Receive` as `interfaceId`), nor a name where the operand is no enumeration (for a
pointer), and this reading is the model's choice (DESIGN CHOICE, log entry 21). -/
def AsmOperand.value : AsmOperand → Option Nat
  | .num n => some n
  | .name s => memberValue s

/-- An 8-bit operand; a number that does not fit is no operand. -/
def AsmOperand.byte (o : AsmOperand) : Option Byte :=
  match o.value with
  | some n => if n < 256 then some (BitVec.ofNat 8 n) else none
  | none => none

/-- A 16-bit operand; a number that does not fit is no operand. -/
def AsmOperand.half (o : AsmOperand) : Option Half :=
  match o.value with
  | some n => if n < 65536 then some (BitVec.ofNat 16 n) else none
  | none => none

/-- The command of an assembler line, given as its mnemonic and its operands (R72). -/
def assemble (mnemonic : String) (operands : List AsmOperand) : Option Instr :=
  match operands with
  | [p] =>
    match p.half with
    | some p => if mnemonic = "ACTIVATE" then some (.activate p) else if mnemonic = "EXECUTE" then some (.execute p) else none
    | none => none
  | [p, id, clk, div] =>
    if mnemonic = "BUILDCFG" then
      match p.half, id.byte, clk.byte, div.half with
      | some p, some id, some clk, some div => some (.buildcfg p id clk div)
      | _, _, _, _ => none
    else none
  | [p, id, outPtr, outLen, addr, dir, respLen, respPtr] =>
    if mnemonic = "BUILDTXN" then
      match p.half, id.byte, outPtr.half, outLen.half, addr.half, dir.byte, respLen.half, respPtr.half with
      | some p, some id, some outPtr, some outLen, some addr, some dir, some respLen, some respPtr =>
        some (.buildtxn p id outPtr outLen addr dir respLen respPtr)
      | _, _, _, _, _, _, _, _ => none
    else none
  | _ => none

/-- The operands of a command in frame order, as numbers (R60, R72). -/
def commandOperands : Instr → Option (List Nat)
  | .buildcfg p id clk div => some [p.toNat, id.toNat, clk.toNat, div.toNat]
  | .activate p => some [p.toNat]
  | .buildtxn p id outPtr outLen addr dir respLen respPtr =>
    some [p.toNat, id.toNat, outPtr.toNat, outLen.toNat, addr.toNat, dir.toNat, respLen.toNat, respPtr.toNat]
  | .execute p => some [p.toNat]
  | .disableUnit _ | .enableUnit _ | .zeroCtl0 _ | .zeroCtl1 _ | .setModes _ | .selectClock _ _ | .routePins _ => none
  | .writeBaudLow _ _ | .writeBaudHigh _ _ | .writeSlaveAddr _ _ | .setTR _ | .clearTR _ => none
  | .assertStart _ | .assertStop _ | .readTxRdy _ | .readRxRdy _ | .readNack _ => none
  | .readSttPending _ | .readStpPending _ | .clearTxRdy _ | .writeTx _ _ | .readRx _ => none

/-- The mnemonic of a command (R65). -/
def commandMnemonic : Instr → Option String
  | .buildcfg _ _ _ _ => some "BUILDCFG"
  | .activate _ => some "ACTIVATE"
  | .buildtxn _ _ _ _ _ _ _ _ => some "BUILDTXN"
  | .execute _ => some "EXECUTE"
  | .disableUnit _ | .enableUnit _ | .zeroCtl0 _ | .zeroCtl1 _ | .setModes _ | .selectClock _ _ | .routePins _ => none
  | .writeBaudLow _ _ | .writeBaudHigh _ _ | .writeSlaveAddr _ _ | .setTR _ | .clearTR _ => none
  | .assertStart _ | .assertStop _ | .readTxRdy _ | .readRxRdy _ | .readNack _ => none
  | .readSttPending _ | .readStpPending _ | .clearTxRdy _ | .writeTx _ _ | .readRx _ => none

end Sys2Proof.Machine
end

