-- ==== Sys2Proof/Tests/Slice0.lean ====
section
/-! SUPPORT. Tests: the well-formedness check, decoding of words and frames written out from the spec, one step of each
instruction with results from the spec's vectors (95_test_vectors.md), and a witness for each obligation with
hypotheses. -/

open Sys2Proof Sys2Proof.Machine

namespace Sys2Proof.Tests

/-! ## Well-formedness -/

/-- The one check: SelectClock's clock source has two bits in the access word (R71). -/
theorem test_wellFormed_refuses_selectClock_4 : (Instr.selectClock .primary 4).wellFormed = false := by decide

theorem test_wellFormed_takes_selectClock_3 : (Instr.selectClock .primary 3).wellFormed = true := by decide

/-! ## Decoding of access words (R70, R71, V-ENC) -/

theorem test_word_disableUnit : decodeAccess 0x8101 = .ok (.disableUnit .primary) := by decide

theorem test_word_disableUnit_secondary : decodeAccess 0x9101 = .ok (.disableUnit .secondary) := by decide

theorem test_word_enableUnit : decodeAccess 0xC101 = .ok (.enableUnit .primary) := by decide

theorem test_word_zeroCtl0 : decodeAccess 0x4000 = .ok (.zeroCtl0 .primary) := by decide

theorem test_word_zeroCtl1 : decodeAccess 0x4100 = .ok (.zeroCtl1 .primary) := by decide

theorem test_word_setModes : decodeAccess 0x800F = .ok (.setModes .primary) := by decide

theorem test_word_selectClock_0 : decodeAccess 0x8100 = .ok (.selectClock .primary 0) := by decide

theorem test_word_selectClock_2 : decodeAccess 0x8180 = .ok (.selectClock .primary 2) := by decide

theorem test_word_routePins : decodeAccess 0x8803 = .ok (.routePins .primary) := by decide

theorem test_word_writeBaudLow : decodeAccess 0x4234 = .ok (.writeBaudLow .primary 0x34) := by decide

theorem test_word_writeBaudHigh : decodeAccess 0x4312 = .ok (.writeBaudHigh .primary 0x12) := by decide

theorem test_word_writeSlaveAddr : decodeAccess 0x4448 = .ok (.writeSlaveAddr .primary 0x48) := by decide

theorem test_word_setTR : decodeAccess 0x8110 = .ok (.setTR .primary) := by decide

theorem test_word_clearTR : decodeAccess 0xC110 = .ok (.clearTR .primary) := by decide

theorem test_word_assertStart : decodeAccess 0x8102 = .ok (.assertStart .primary) := by decide

theorem test_word_assertStop : decodeAccess 0x8104 = .ok (.assertStop .primary) := by decide

theorem test_word_readTxRdy : decodeAccess 0x0502 = .ok (.readTxRdy .primary) := by decide

theorem test_word_readRxRdy : decodeAccess 0x0501 = .ok (.readRxRdy .primary) := by decide

theorem test_word_readNack : decodeAccess 0x0504 = .ok (.readNack .primary) := by decide

theorem test_word_readSttPending : decodeAccess 0x0102 = .ok (.readSttPending .primary) := by decide

theorem test_word_readStpPending : decodeAccess 0x0104 = .ok (.readStpPending .primary) := by decide

theorem test_word_clearTxRdy_secondary : decodeAccess 0xD502 = .ok (.clearTxRdy .secondary) := by decide

theorem test_word_writeTx_secondary : decodeAccess 0x565A = .ok (.writeTx .secondary 0x5A) := by decide

theorem test_word_readRx_secondary : decodeAccess 0x17FF = .ok (.readRx .secondary) := by decide

/-- Bit by bit: kind 3 (CLR), bit 13, unit 0, register 1 (CTL1), data 0x10 (95_test_vectors.md §2.1). -/
theorem test_word_clearTR_bits : decodeAccess 0b11_0_0_0001_00010000#16 = .ok (.clearTR .primary) := by decide

/-- Bit 13 is no bit of a word (V13). -/
theorem test_word_bit13_refused : decodeAccess 0xA101 = .error .reservedBit13 := by decide

/-- Register numbers 9 to 15 are no registers (V12). -/
theorem test_word_register9_refused : decodeAccess 0x4900 = .error .reservedRegister := by decide

/-- A write of `IFG` is no primitive (R50). -/
theorem test_word_no_primitive_refused : decodeAccess 0x4502 = .error .noSuchPrimitive := by decide

/-! ## Decoding of frames (V-ENC-1 to V-ENC-10) -/

theorem test_frame_buildcfg :
    decodeFrame [0x01, 0x08, 0x01, 0x01, 0x01, 0x28, 0x00] = .ok (.buildcfg 0x0108 1 1 0x0028) := by decide

theorem test_frame_activate : decodeFrame [0x02, 0x00, 0x01] = .ok (.activate 0x0100) := by decide

theorem test_frame_buildtxn :
    decodeFrame [0x03, 0x10, 0x01, 0x01, 0x00, 0x02, 0x00, 0x00, 0xFF, 0x00, 0x01, 0x01, 0x00, 0x00, 0x03] =
      .ok (.buildtxn 0x0110 1 0x0200 0 0x00FF 1 1 0x0300) := by decide

/-- An address of 256 is an operand value, not an illegal encoding (R67, V-ENC-10). -/
theorem test_frame_buildtxn_address_256 :
    decodeFrame [0x03, 0x10, 0x01, 0x00, 0x00, 0x02, 0x05, 0x00, 0x00, 0x01, 0x00, 0x00, 0x00, 0x00, 0x03] =
      .ok (.buildtxn 0x0110 0 0x0200 5 0x0100 0 0 0x0300) := by decide

theorem test_frame_execute : decodeFrame [0x04, 0x10, 0x01] = .ok (.execute 0x0110) := by decide

theorem test_frame_opcode_0_refused : decodeFrame [0x00, 0x00, 0x01] = .error .reservedOpcode := by decide

theorem test_frame_opcode_FF_refused : decodeFrame [0xFF] = .error .reservedOpcode := by decide

theorem test_frame_short_refused : decodeFrame [0x02, 0x00] = .error .wrongLength := by decide

theorem test_frame_empty_refused : decodeFrame [] = .error .emptyFrame := by decide

/-! ## The assembler's line of R72 -/

theorem test_assembler_example :
    (assemble "BUILDCFG" [.num 0x0100, .name "Primary", .name "CLKSRC2", .num 0x1234]).map encode =
      some (.frame [0x01, 0x00, 0x01, 0x00, 0x02, 0x34, 0x12]) := by decide

/-! ## States and answers -/

/-- A unit's registers with the given `CTL0`, `CTL1` and `IFG`, the pins routed, the others 0. -/
def regsOf (ctl0 ctl1 ifg : Byte) : UnitRegs :=
  { ctl0 := ctl0, ctl1 := ctl1, brl := 0, brh := 0, sa := 0, ifg := ifg, txbuf := 0, rxbuf := 0, psel := 0x03 }

/-- The reset state with the Primary unit's registers and `ACTIVE` bit replaced. -/
def unitState (r : UnitRegs) (active : Bool) : State := (State.reset.setRegs .primary r).setActive .primary active

/-- The next state an answer gives. -/
def answer (o : Host.Outcome State Fault Refusal) : Option State :=
  match o with
  | .next t => some t
  | .fault _ => none
  | .refused _ => none

/-- `CTL0`, `CTL1`, `IFG` and `ACTIVE` of the Primary unit. -/
def see (s : State) : Byte × Byte × Byte × Bool :=
  ((s.regs .primary).ctl0, (s.regs .primary).ctl1, (s.regs .primary).ifg, s.active.primary)

/-- `CTL0`, `CTL1`, `IFG` and `ACTIVE` of the Primary unit after a primitive. -/
def after (i : Instr) (ctl0 ctl1 ifg : Byte) (active : Bool) : Option (Byte × Byte × Byte × Bool) :=
  (answer (exec i (unitState (regsOf ctl0 ctl1 ifg) active))).map see

/-- What a read primitive returns. -/
def returned (i : Instr) (ctl1 ifg rxbuf : Byte) : Option Byte :=
  (answer (exec i (unitState { regsOf 0x0F ctl1 ifg with rxbuf := rxbuf } true))).map State.ret

/-! ## One step of each primitive (V-PRM-1 to V-PRM-28) -/

theorem test_prm1_disableUnit : after (.disableUnit .primary) 0x0F 0x94 0x04 true = some (0x0F, 0x95, 0x04, false) := by decide

theorem test_prm2_disableUnit_held : after (.disableUnit .primary) 0x0F 0x01 0x00 false = some (0x0F, 0x01, 0x00, false) := by decide

theorem test_prm3_enableUnit : after (.enableUnit .primary) 0x0F 0x81 0x04 false = some (0x0F, 0x80, 0x04, true) := by decide

theorem test_prm4_zeroCtl0 : after (.zeroCtl0 .primary) 0x0F 0x01 0x00 false = some (0x00, 0x01, 0x00, false) := by decide

theorem test_prm5_zeroCtl1 : after (.zeroCtl1 .primary) 0x00 0x97 0x04 false = some (0x00, 0x00, 0x04, false) := by decide

theorem test_prm6_setModes : after (.setModes .primary) 0x00 0x01 0x00 false = some (0x0F, 0x01, 0x00, false) := by decide

theorem test_prm7_selectClock_1 : after (.selectClock .primary 1) 0x0F 0x01 0x00 false = some (0x0F, 0x41, 0x00, false) := by decide

theorem test_prm8_selectClock_0 : after (.selectClock .primary 0) 0x0F 0x01 0x00 false = some (0x0F, 0x01, 0x00, false) := by decide

theorem test_prm13_setTR : after (.setTR .primary) 0x0F 0x80 0x00 true = some (0x0F, 0x90, 0x00, true) := by decide

theorem test_prm14_clearTR : after (.clearTR .primary) 0x0F 0x90 0x00 true = some (0x0F, 0x80, 0x00, true) := by decide

theorem test_prm15_assertStart : after (.assertStart .primary) 0x0F 0x90 0x04 true = some (0x0F, 0x92, 0x00, true) := by decide

theorem test_prm16_assertStart_pending : after (.assertStart .primary) 0x0F 0x92 0x06 true = some (0x0F, 0x92, 0x02, true) := by decide

theorem test_prm17_assertStop : after (.assertStop .primary) 0x0F 0x90 0x04 true = some (0x0F, 0x94, 0x04, true) := by decide

theorem test_prm24_clearTxRdy : after (.clearTxRdy .primary) 0x0F 0x90 0x07 true = some (0x0F, 0x90, 0x05, true) := by decide

theorem test_prm25_clearTxRdy_clear : after (.clearTxRdy .primary) 0x0F 0x90 0x00 true = some (0x0F, 0x90, 0x00, true) := by decide

theorem test_prm26_writeTx : after (.writeTx .primary 0x5A) 0x0F 0x90 0x06 true = some (0x0F, 0x90, 0x04, true) := by decide

theorem test_prm27_readRx : after (.readRx .primary) 0x0F 0x80 0x03 true = some (0x0F, 0x80, 0x02, true) := by decide

theorem test_prm18_readTxRdy : returned (.readTxRdy .primary) 0x90 0x06 0 = some 0x02 := by decide

theorem test_prm19_readTxRdy_not : returned (.readTxRdy .primary) 0x90 0x05 0 = some 0x00 := by decide

theorem test_prm20_readRxRdy : returned (.readRxRdy .primary) 0x80 0x01 0 = some 0x01 := by decide

theorem test_prm21_readNack : returned (.readNack .primary) 0x90 0x04 0 = some 0x04 := by decide

theorem test_prm22_readSttPending : returned (.readSttPending .primary) 0x82 0x00 0 = some 0x02 := by decide

theorem test_prm23_readStpPending : returned (.readStpPending .primary) 0x84 0x00 0 = some 0x04 := by decide

theorem test_prm28_readRx_returns : returned (.readRx .primary) 0x80 0x00 0xA5 = some 0xA5 := by decide

theorem test_prm9_routePins :
    (answer (exec (.routePins .primary) State.reset)).map (fun t => (t.regs .primary).psel) = some 0x03 := by decide

theorem test_prm10_writeBaudLow :
    (answer (exec (.writeBaudLow .primary 0x34) State.reset)).map (fun t => (t.regs .primary).brl) = some 0x34 := by decide

theorem test_prm11_writeBaudHigh :
    (answer (exec (.writeBaudHigh .primary 0x12) State.reset)).map (fun t => (t.regs .primary).brh) = some 0x12 := by decide

theorem test_prm12_writeSlaveAddr :
    (answer (exec (.writeSlaveAddr .primary 0x48) State.reset)).map (fun t => (t.regs .primary).sa) = some 0x48 := by decide

theorem test_prm26_writeTx_txbuf :
    (answer (exec (.writeTx .primary 0x5A) State.reset)).map (fun t => (t.regs .primary).txbuf) = some 0x5A := by decide

/-- A primitive on the Secondary unit leaves the Primary unit as it is (V-PRM-29). -/
theorem test_prm29_other_unit :
    (answer (exec (.zeroCtl1 .secondary) (unitState (regsOf 0x0F 0x97 0x04) true))).map see =
      some (0x0F, 0x97, 0x04, true) := by decide

/-! ## The acceptance of each command (V-CFG, V-TXN, V-ACT, V-EXE) -/

/-- `st` and `BUSY` after a command is submitted right after reset. -/
def accepted (i : Instr) : Option (EngineState × Bool) := (answer (exec i State.reset)).map fun t => (t.st, t.busy)

/-- V-CFG-10: the record wraps past the top of memory (R47). -/
theorem test_buildcfg_wraps :
    accepted (.buildcfg 0xFFFD 1 2 0xBEEF) =
      some (.build [(0xFFFD, 0x01), (0xFFFE, 0x02), (0xFFFF, 0xEF), (0x0000, 0xBE), (0x0001, 0x01), (0x0002, 0x00)]
        .noError, true) := by decide

/-- V-CFG-6: only the record's `error` byte is written. -/
theorem test_buildcfg_bad_clock :
    accepted (.buildcfg 0x0100 0 3 0x1234) = some (.build [(0x0105, 0x02)] .badParameters, true) := by decide

/-- V-TXN-1. -/
theorem test_buildtxn_record :
    accepted (.buildtxn 0x0110 0 0x0200 5 0x48 0 0 0x0300) =
      some (.build [(0x0110, 0x00), (0x0111, 0x00), (0x0112, 0x48), (0x0113, 0x00), (0x0114, 0x00), (0x0115, 0x02),
        (0x0116, 0x05), (0x0117, 0x00), (0x0118, 0x00), (0x0119, 0x00), (0x011A, 0x00), (0x011B, 0x03), (0x011C, 0x01),
        (0x011D, 0x00)] .noError, true) := by decide

/-- V-TXN-3: an address of 256 is one too many. -/
theorem test_buildtxn_address_256 :
    accepted (.buildtxn 0x0110 0 0x0200 5 256 0 0 0x0300) = some (.build [(0x011D, 0x02)] .badParameters, true) := by
  decide

/-- V-ACT-5: a null pointer. -/
theorem test_activate_null : accepted (.activate 0) = some (.actRaise .notInitialized, true) := by decide

theorem test_activate_loads : accepted (.activate 0x0100) = some (.actLoad 0x0100 [], true) := by decide

/-- V-EXE-3: a null pointer. -/
theorem test_execute_null : accepted (.execute 0) = some (.entryRaise .notInitialized, true) := by decide

theorem test_execute_loads : accepted (.execute 0x0110) = some (.entryLoad 0x0110 [], true) := by decide

/-! ## Bus agents (V-BUS) -/

/-- V-BUS-4: `StartDone` on `CTL1` = 92 gives 90. -/
theorem test_bus_startDone :
    see ((unitState (regsOf 0x0F 0x92 0x00) true).busEvent .primary .startDone) = (0x0F, 0x90, 0x00, true) := by decide

/-- V-BUS-6: no `RxByte` while a byte is unread. -/
theorem test_bus_no_overrun : (BusEvent.rxByte 0x77).enabled (regsOf 0x0F 0x84 0x01) = false := by decide

/-- V-BUS-7: a held unit has no events. -/
theorem test_bus_held : BusEvent.stopDone.enabled (regsOf 0x0F 0x95 0x04) = false := by decide

/-- R170 with `dataAck` false for the second and the fifth byte alone: the second byte is NACKed, the third not. -/
theorem test_slave_any_predicate :
    let sl := RefSlave.new (fun _ => true) (fun j _ => j != 2 && j != 5) []
    let s := unitState (regsOf 0x0F 0x90 0x00) true
    let one := sl.onWrite .primary 0x11 s
    let two := one.1.onWrite .primary 0x22 s
    let three := two.1.onWrite .primary 0x33 s
    (see two.2 = (0x0F, 0x90, 0x04, true) ∧ see three.2 = (0x0F, 0x90, 0x02, true)) ∧ three.1.log = [0x11, 0x22, 0x33] := by
  decide

/-! ## The table's words, and a word placed where the next step runs it -/

theorem test_table_access_word : decodeTableWord 16 0x8102 = some (.assertStart .primary) := by decide

/-- A command's row gives the opcode byte alone: its operand bytes are 0. -/
theorem test_table_opcode_byte : decodeTableWord 8 0x04 = some (.execute 0x0000) := by decide

theorem test_table_whole_frame : decodeTableWord 24 0x010002 = some (.activate 0x0100) := by decide

/-- A word placed after reset is run by the very next step. -/
theorem test_withFetchWord_primitive :
    (answer (step (State.reset.withFetchWord 16 0x8104))).map see = some (0x00, 0x05, 0x00, false) := by decide

theorem test_withFetchWord_command :
    (answer (step (State.reset.withFetchWord 24 0x011004))).map (fun t => (t.st, t.busy)) =
      some (.entryLoad 0x0110 [], true) := by decide

/-! ## Witnesses: states and operands that meet the hypotheses of the obligations -/

/-- Values of the open parameters for the witnesses; each obligation is about every value. -/
def prm : Params := { nackPolicy := .restartMessage }

/-- A Descriptor of the Primary unit. -/
def descOf (direction : Byte) (outLen respLen : Half) : Descriptor :=
  { interfaceId := 0, direction := direction, slaveAddress := 0x48, outPtr := 0x0200, outLen := outLen, respLen := respLen,
    respPtr := 0x0300, valid := 0x01 }

/-- The working registers of an EXECUTE of the Primary unit. -/
def workOf (d : Descriptor) (txIndex rxIndex : Half) (nackCount : Byte) (stopIssued : Bool) : Working :=
  { Working.reset with d := d, txIndex := txIndex, rxIndex := rxIndex, nackCount := nackCount, stopIssued := stopIssued }

/-- The engine inside a command of the Primary unit, which is active. -/
def busyAt (st : EngineState) (w : Working) (ctl1 ifg : Byte) : State :=
  { unitState (regsOf 0x0F ctl1 ifg) true with st := st, w := w, busy := true }

/-- The state right after reset with moves to come. -/
def withTurns (turns : List Turn) : State := { State.reset with turns := turns }

/-- The idle machine with the Primary unit active and a record in memory. -/
def idleWith (p : Half) (record : List Byte) : State := (unitState (regsOf 0x0F 0x80 0x00) true).writes (writesAt p record)

/-! ### Encodings -/

theorem witness_DecodeOfEncodeIsTheInstruction : (Instr.selectClock .secondary 3).wellFormed = true := by decide

theorem witness_DecodedFrameIsTheCommandsFrame : decodeFrame [0x02, 0xFF, 0xFF] = .ok (.activate 0xFFFF) := by decide

theorem witness_DecodedAccessWordIsThePrimitivesWord : decodeAccess 0x91C0 = .ok (.selectClock .secondary 3) := by decide

theorem witness_FrameDecodesExactlyWhenOpcodeAndLengthFit :
    (withTurns [.submit [0x02, 0x00, 0x01]]).turns = [.submit [0x02, 0x00, 0x01]] ∧
    (withTurns [.submit [0x05, 0x00, 0x01]]).turns = [.submit [0x05, 0x00, 0x01]] ∧
    decodeFrame [0x05, 0x00, 0x01] = .error .reservedOpcode := by decide

/-! ### A step and the instruction it runs -/

theorem witness_StepRunsTheDecodedInstruction :
    ((withTurns [.submit [0x04, 0x10, 0x01]]).turns = [.submit [0x04, 0x10, 0x01]] ∧
      decodeFrame [0x04, 0x10, 0x01] = .ok (.execute 0x0110)) ∧
    ({ busyAt .txPoll Working.reset 0x90 0x02 with turns := [.engine] }.turns = [.engine] ∧
      { busyAt .txPoll Working.reset 0x90 0x02 with turns := [.engine] }.issue = some (.readTxRdy .primary)) ∧
    ((busyAt .stop Working.reset 0x90 0x00).turns = [] ∧
      (busyAt .stop Working.reset 0x90 0x00).issue = some (.assertStop .primary)) := by decide

theorem witness_PrimitiveNeverFailsAndActsOnOneUnit :
    (Instr.readRx .secondary).access = some { kind := .RD, unit := .secondary, reg := .RXBUF, data := 0xFF } ∧
    UnitId.primary ≠ .secondary ∧ (∀ u, Instr.readRx .secondary ≠ .disableUnit u) ∧
    (∀ u, Instr.readRx .secondary ≠ .enableUnit u) := by
  refine ⟨rfl, by decide, ?_, ?_⟩ <;> intro u <;> cases u <;> decide

theorem witness_AccessKindsFollowTheirFormulas :
    UnitReg.CTL1 ≠ .IFG ∧ UnitReg.TXBUF ≠ .IFG ∧ UnitId.secondary ≠ .primary := by decide

/-! ### The primitives -/

theorem witness_DisableUnitHoldsAndDeactivates :
    (∃ t, exec (.disableUnit .primary) (unitState (regsOf 0x0F 0x94 0x04) true) = .next t) ∧
    (((unitState (regsOf 0x00 0x01 0x00) false).regs .primary).swrst = true ∧
      (unitState (regsOf 0x00 0x01 0x00) false).active.get .primary = false) := by
  exact ⟨⟨_, rfl⟩, by decide⟩

theorem witness_ControlBitWritesOfActivate :
    ((unitState (regsOf 0x0F 0xD7 0x07) true).regs .primary).reservedZero = true := by decide

/-! ### Bus agents, host and reset -/

/-- A state in which the given event of the Primary unit is the next move. -/
def beforeEvent (ctl0 ctl1 ifg : Byte) (e : BusEvent) : State :=
  { unitState (regsOf ctl0 ctl1 ifg) true with turns := [.bus .primary e] }

/-- Each event where it happens, and one where it does not (V-BUS-4, V-BUS-6, V-BUS-7). -/
theorem witness_BusEventsHappenWhenEnabled :
    (beforeEvent 0x0F 0x92 0x00 .startDone).turns = [.bus .primary .startDone] ∧
    (regsOf 0x0F 0x92 0x00).swrst = false ∧ (regsOf 0x0F 0x92 0x00).ctl0 = 0x0F ∧ (regsOf 0x0F 0x92 0x00).txstt = true ∧
    (regsOf 0x0F 0x84 0x01).swrst = false ∧ (regsOf 0x0F 0x84 0x01).txstp = true ∧
    (regsOf 0x0F 0x92 0x00).tr = true ∧ (regsOf 0x0F 0x92 0x00).txrdy = false ∧
    (regsOf 0x0F 0x84 0x01).nack = false ∧
    (regsOf 0x0F 0x80 0x00).tr = false ∧ (regsOf 0x0F 0x80 0x00).rxrdy = false ∧
    (regsOf 0x0F 0x95 0x04).swrst = true := by decide

theorem witness_BusAgentNeverChangesTheRest :
    ∃ t, stepWith prm (beforeEvent 0x0F 0x80 0x00 (.rxByte 0x77)) = .next t := ⟨_, rfl⟩

theorem witness_EngineNeverSetsFlagsNorServesRequests :
    (busyAt .txClear (workOf (descOf 0 1 0) 1 0 0 false) 0x92 0x06).turns = [] ∧
    (∃ t, stepWith prm (busyAt .txClear (workOf (descOf 0 1 0) 1 0 0 false) 0x92 0x06) = .next t) ∧
    (busyAt .txClear (workOf (descOf 0 1 0) 1 0 0 false) 0x92 0x06).st ≠ .act .zero1 := by
  exact ⟨rfl, ⟨_, rfl⟩, by decide⟩

/-- The step after `ZeroCtl1`, where the unit is released and not configured, and the last step. -/
theorem witness_NoBusEventInsideActivate :
    ({ unitState (regsOf 0x00 0x00 0x00) false with st := .act .holdAgain, busy := true }.unitOk .primary = true) ∧
    ({ unitState (regsOf 0x0F 0x81 0x00) false with st := .act .release, busy := true }.unitOk .primary = true) ∧
    State.reset.w.u = .primary ∧ ActStep.holdAgain ≠ .hold ∧ ActStep.release ≠ .hold := by decide

theorem witness_ResetLeavesTheGivenValues :
    { busyAt .txPoll Working.reset 0x90 0x02 with turns := [.powerOn] }.turns = [.powerOn] := by decide

theorem witness_HostActsOnlyWhileIdle :
    Memory.wf State.reset.mem = true ∧
    ((withTurns [.hostWrite 0xFFFF 0x12]).turns = [.hostWrite 0xFFFF 0x12] ∧
      (withTurns [.hostWrite 0xFFFF 0x12]).busy = false) ∧
    ({ withTurns [.hostWrite 0 0] with busy := true }.turns = [.hostWrite 0 0]) ∧
    ({ withTurns [.submit [0x02, 0x00, 0x01]] with busy := true }.turns = [.submit [0x02, 0x00, 0x01]] ∧
      decodeFrame [0x02, 0x00, 0x01] = .ok (.activate 0x0100)) := by decide

/-! ### Invariants -/

/-- A state inside EXECUTE that meets all the invariants, and the step it takes. -/
theorem witness_StepKeepsTheInvariants :
    (busyAt .txNack (workOf (descOf 1 2 1) 1 0 9 false) 0x90 0x04).inv = true ∧
    ∃ t, step (busyAt .txNack (workOf (descOf 1 2 1) 1 0 9 false) 0x90 0x04) = .next t :=
  ⟨by decide, ⟨_, rfl⟩⟩

/-- The same for a state inside ACTIVATE, where the unit is released and not active. -/
theorem witness_StepKeepsActiveWithRelease :
    { unitState (regsOf 0x00 0x00 0x00) false with st := .act .holdAgain, busy := true }.busyOk = true ∧
    { unitState (regsOf 0x00 0x00 0x00) false with st := .act .holdAgain, busy := true }.reservedZero = true ∧
    { unitState (regsOf 0x00 0x00 0x00) false with st := .act .holdAgain, busy := true }.unitOk .primary = true ∧
    ∃ t, step { unitState (regsOf 0x00 0x00 0x00) false with st := .act .holdAgain, busy := true } = .next t :=
  ⟨by decide, by decide, by decide, ⟨_, rfl⟩⟩

/-- A step of EXECUTE on an active unit: no step of the unit's ACTIVATE and no reset. -/
theorem witness_StepKeepsActiveWithRelease_frame :
    let s := busyAt .txNack (workOf (descOf 1 2 1) 1 0 9 false) 0x90 0x04
    s.busyOk = true ∧ s.reservedZero = true ∧ s.unitOk .primary = true ∧ s.activating .primary = none ∧
    s.turns.head? ≠ some .powerOn ∧ ∃ t, step s = .next t :=
  ⟨by decide, by decide, by decide, by decide, by decide, ⟨_, rfl⟩⟩

/-- A Receive and a Transmit inside EXECUTE, each at its last place with full indices. -/
theorem witness_StepKeepsIndicesWithinLengths :
    let r := busyAt .stpRaise (workOf (descOf 1 2 2) 2 2 9 false) 0x80 0x00
    let t := busyAt .stpRaise (workOf (descOf 0 2 2) 2 0 0 false) 0x90 0x00
    (r.placeOk = true ∧ r.st.inExecute = true ∧ r.w.d.direction = 1) ∧
    (t.placeOk = true ∧ t.st.inExecute = true ∧ t.w.d.direction ≠ 1) := by decide

/-! ### The commands -/

/-- The reset state is an idle machine that may take any command. -/
theorem witness_idle :
    State.reset.busy = false ∧ State.reset.st = .idle ∧ State.reset.turns = [] ∧ Memory.wf State.reset.mem = true := by
  decide

/-- A record at the top of memory, one with a bad id, and a null pointer. -/
theorem witness_BuildcfgWritesTheConfigRecord :
    ((0xFFFF : Half) ≠ 0 ∧ (1 : Byte) = 1 ∧ (2 : Byte) = 2) ∧
    ((0x0001 : Half) ≠ 0 ∧ ¬ (((2 : Byte) = 0 ∨ (2 : Byte) = 1) ∧ ((0 : Byte) = 0 ∨ (0 : Byte) = 1 ∨ (0 : Byte) = 2))) ∧
    ((0 : Half) = 0) := by decide

/-- Address 255 and `respLen` 1 are good, address 256 is not. -/
theorem witness_BuildtxnWritesTheDescriptorRecord :
    ((0x0200 : Half) ≠ 0 ∧ (0x0300 : Half) ≠ 0 ∧ (255 : Half).toNat ≤ 255 ∧ (1 : Byte) = 1 ∧ (0 : Byte) = 0 ∧
      (1 : Half) ≠ 0) ∧ ¬ (256 : Half).toNat ≤ 255 ∧ (0 : Half) = 0 := by decide

/-- The idle machine with a good Config at the top of memory (V-CFG-10 with the Primary unit). -/
theorem witness_ActivateProgramsTheUnit :
    let s := idleWith 0xFFFD [0x00, 0x02, 0xEF, 0xBE, 0x01, 0x00]
    s.busy = false ∧ s.st = .idle ∧ s.turns = [] ∧ (s.regs .primary).reservedZero = true ∧
    (s.configAt 0xFFFD).valid = 0x01 ∧ (s.configAt 0xFFFD).interfaceId = UnitId.primary.bit.setWidth 8 ∧ s.inv = true := by
  decide

theorem witness_ActivateIsIdempotent :
    let s := idleWith 0x0100 [0x00, 0x02, 0x34, 0x12, 0x01, 0x00]
    ∃ t t' t2 t2', exec (.activate 0x0100) s = .next t ∧ runWith prm 16 t = .next t' ∧
      exec (.activate 0x0100) t' = .next t2 ∧ runWith prm 16 t2 = .next t2' :=
  ⟨_, _, _, _, rfl, rfl, rfl, rfl⟩

/-- V-ACT-4, V-ACT-6: a record that is not valid, and one with id 2. -/
theorem witness_ActivateChecksTheRecordFirst :
    ((idleWith 0x0100 [0, 0, 0, 0, 0x02, 0]).configAt 0x0100).valid ≠ 0x01 ∧
    ((idleWith 0x0100 [2, 0, 0x34, 0x12, 0x01, 0]).configAt 0x0100).valid = 0x01 ∧
    ((idleWith 0x0100 [2, 0, 0x34, 0x12, 0x01, 0]).configAt 0x0100).interfaceId ≠ 0 ∧
    ((idleWith 0x0100 [2, 0, 0x34, 0x12, 0x01, 0]).configAt 0x0100).interfaceId ≠ 1 := by decide

theorem witness_BuiltConfigActivatesWithItsDivider : State.reset.inv = true ∧ (2 : Byte).toNat ≤ 2 := by decide

/-- V-EXE-7, V-EXE-4, V-EXE-5 and a good Descriptor of the active unit. -/
theorem witness_ExecuteEntryChecksInOrder :
    ((idleWith 0x0110 [0, 0, 0, 0, 0, 0, 0, 0, 0, 0, 0, 0, 0x02]).descriptorAt 0x0110).valid ≠ 0x01 ∧
    ((idleWith 0x0110 [2, 0, 0, 0, 0, 0, 0, 0, 0, 0, 0, 0, 0x01]).descriptorAt 0x0110).valid = 0x01 ∧
    ((idleWith 0x0110 [2, 0, 0, 0, 0, 0, 0, 0, 0, 0, 0, 0, 0x01]).descriptorAt 0x0110).interfaceId = 2 ∧
    ((idleWith 0x0110 [1, 0, 0, 0, 0, 0, 0, 0, 0, 0, 0, 0, 0x01]).descriptorAt 0x0110).interfaceId =
      UnitId.secondary.bit.setWidth 8 ∧
    (idleWith 0x0110 [1, 0, 0, 0, 0, 0, 0, 0, 0, 0, 0, 0, 0x01]).active.get .secondary = false ∧
    ((idleWith 0x0110 [0, 0, 0, 0, 0, 0, 0, 0, 0, 0, 0, 0, 0x01]).descriptorAt 0x0110).interfaceId =
      UnitId.primary.bit.setWidth 8 ∧
    (idleWith 0x0110 [0, 0, 0, 0, 0, 0, 0, 0, 0, 0, 0, 0, 0x01]).active.get .primary = true := by decide

/-- A state about to raise in each command, and the step that does. -/
theorem witness_CommandsRaiseOnlyTheirCodes :
    ((busyAt .stpRaise (workOf (descOf 0 1 0) 1 0 0 false) 0x90 0x00).placeOk = true ∧
      ∃ t, stepWith prm (busyAt .stpRaise (workOf (descOf 0 1 0) 1 0 0 false) 0x90 0x00) = .next t ∧ t.st = .idle) ∧
    (∃ t, stepWith prm (busyAt (.build [] .badParameters) Working.reset 0x80 0x00) = .next t ∧ t.st = .idle) ∧
    (∃ t, stepWith prm (busyAt (.actRaise .unspecifiedError) Working.reset 0x80 0x00) = .next t ∧ t.st = .idle) ∧
    (∃ t, stepWith prm (busyAt (.entryRaise .interfaceNotActive) Working.reset 0x80 0x00) = .next t ∧ t.st = .idle) :=
  ⟨⟨by decide, ⟨_, rfl, rfl⟩⟩, ⟨_, rfl, rfl⟩, ⟨_, rfl, rfl⟩, ⟨_, rfl, rfl⟩⟩

/-! ### The state machine of EXECUTE -/

theorem witness_StartWritesTheAddressAndOpensTheTransfer :
    (busyAt .startAddr (workOf (descOf 0 1 0) 0 0 0 false) 0x80 0x00).st = .startAddr ∧
    0 < (descOf 0 1 0).outLen.toNat ∧ (descOf 1 0 1).outLen = 0 := by decide

theorem witness_TransmitReadyWritesTheNextByte :
    (busyAt .txPoll (workOf (descOf 0 2 0) 0 0 3 false) 0x90 0x06).st = .txPoll ∧
    ((busyAt .txPoll (workOf (descOf 0 2 0) 0 0 3 false) 0x90 0x06).regs .primary).txrdy = true ∧
    (0 : Half) + 1 ≠ (descOf 0 2 0).outLen ∧ (1 : Half) + 1 = (descOf 0 2 0).outLen := by decide

theorem witness_TransmitNackCountsAndRestarts :
    ((busyAt .txPoll (workOf (descOf 0 2 0) 1 0 8 false) 0x90 0x04).regs .primary).txrdy = false ∧
    ((busyAt .txPoll (workOf (descOf 0 2 0) 1 0 8 false) 0x90 0x04).regs .primary).nack = true ∧ (8 : Byte).toNat + 1 < 10 ∧
    ((busyAt .txPoll (workOf (descOf 0 2 0) 1 0 8 false) 0x90 0x00).regs .primary).nack = false := by decide

theorem witness_TenthNackAborts :
    (busyAt .txPoll (workOf (descOf 0 2 0) 1 0 9 false) 0x90 0x04).w.nackCount = 9 ∧
    ((busyAt .txPoll (workOf (descOf 0 2 0) 1 0 9 false) 0x90 0x04).regs .primary).nack = true ∧
    ((busyAt .txPoll (workOf (descOf 0 2 0) 1 0 9 false) 0x90 0x04).regs .primary).txrdy = false ∧
    (busyAt .rxPoll (workOf (descOf 1 0 2) 0 0 9 false) 0x80 0x04).st = .rxPoll ∧
    ((busyAt .rxPoll (workOf (descOf 1 0 2) 0 0 9 false) 0x80 0x04).regs .primary).rxrdy = false ∧
    prm.rxNackCheck = true := by decide

theorem witness_PrepareReceiveTurnsTheBusAround :
    (busyAt .prepTr (workOf (descOf 1 0 1) 0 0 0 false) 0x90 0x02).st = .prepTr ∧
    (busyAt .prepTr (workOf (descOf 1 0 1) 0 0 0 false) 0x90 0x02).w.rxIndex = 0 := by decide

theorem witness_SingleByteReadStopsRightAfterStart :
    ((busyAt .sttPoll (workOf (descOf 1 0 1) 0 0 0 false) 0x82 0x00).regs .primary).txstt = true ∧
    ((busyAt .sttPoll (workOf (descOf 1 0 1) 0 0 0 false) 0x80 0x00).regs .primary).txstt = false ∧
    (0 : Half) < (descOf 1 0 1).respLen := by decide

theorem witness_ReceiveReadyStoresTheByte :
    (busyAt .rxPoll (workOf (descOf 1 0 1) 0 0 0 true) 0x80 0x05).st = .rxPoll ∧
    ((busyAt .rxPoll (workOf (descOf 1 0 1) 0 0 0 true) 0x80 0x05).regs .primary).rxrdy = true ∧
    Memory.wf (busyAt .rxPoll (workOf (descOf 1 0 1) 0 0 0 true) 0x80 0x05).mem = true := by decide

theorem witness_ReceiveNackCountsAndRestarts :
    ((busyAt .rxPoll (workOf (descOf 1 0 2) 0 1 8 false) 0x80 0x04).regs .primary).rxrdy = false ∧
    ((busyAt .rxPoll (workOf (descOf 1 0 2) 0 1 8 false) 0x80 0x04).regs .primary).nack = true ∧ (8 : Byte).toNat + 1 < 10 ∧
    ((busyAt .rxPoll (workOf (descOf 1 0 2) 0 1 8 false) 0x80 0x00).regs .primary).nack = false ∧
    prm.rxNackCheck = true ∧ ({ prm with rxNackCheck := false } : Params).rxNackCheck = false := by decide

theorem witness_StopIsRequestedOnceAndAwaited :
    (busyAt .stop (workOf (descOf 1 0 1) 0 1 0 true) 0x80 0x00).w.stopIssued = true ∧
    (busyAt .stop (workOf (descOf 0 1 0) 1 0 0 false) 0x90 0x00).w.stopIssued = false ∧
    ((busyAt .stpPoll (workOf (descOf 0 1 0) 1 0 0 false) 0x94 0x00).regs .primary).txstp = true ∧
    ((busyAt .stpPoll (workOf (descOf 0 1 0) 1 0 0 false) 0x90 0x00).regs .primary).txstp = false := by decide

/-! ### Rules of the whole machine -/

/-- An EXECUTE of a Receive Descriptor of one byte that comes to its end, the bus agent answering the START and
delivering the byte. -/
def receiveOne : State :=
  { busyAt .startAddr (workOf (descOf 1 0 1) 0 0 0 false) 0x80 0x00 with
    turns := [.engine, .engine, .engine, .engine, .bus .primary .startDone, .bus .primary (.rxByte 0xA5)] }

/-- The same for a Transmit of one byte. -/
def transmitOne : State :=
  { busyAt .startAddr (workOf (descOf 0 1 0) 0 0 0 false) 0x80 0x00 with
    turns := [.engine, .engine, .engine, .bus .primary .startDone, .bus .primary .txReady, .engine, .engine, .engine,
      .engine, .engine, .bus .primary .stopDone] }

/-- Ten NACKs in a row on a Transmit, one before each poll. -/
def nackTen : State :=
  { busyAt .startAddr (workOf (descOf 0 1 0) 0 0 0 false) 0x80 0x00 with
    turns := [.engine, .engine, .engine] ++
      (List.replicate 10 [.bus .primary .nack, .engine, .engine, .engine]).flatten }

theorem witness_returned_receive :
    receiveOne.quiet = true ∧ receiveOne.placeOk = true ∧ Memory.wf receiveOne.mem = true ∧ receiveOne.st = .startAddr ∧
    receiveOne.w.d.direction = 1 ∧ ∃ t, runWith prm 12 receiveOne = .next t ∧ t.st = .idle ∧ t.result = 0 :=
  ⟨by decide, by decide, by decide, by decide, by decide, ⟨_, rfl, rfl, rfl⟩⟩

theorem witness_returned_transmit :
    transmitOne.quiet = true ∧ transmitOne.placeOk = true ∧ Memory.wf transmitOne.mem = true ∧
    transmitOne.st = .startAddr ∧ transmitOne.w.d.direction ≠ 1 ∧
    (∃ t, runWith prm 13 transmitOne = .next t ∧ t.st = .idle ∧ t.result = 0) ∧
    (traceWith prm 13 transmitOne).countP isNackSeen = 0 ∧ prm.nackPolicy = .restartMessage :=
  ⟨by decide, by decide, by decide, by decide, by decide, ⟨_, rfl, rfl, rfl⟩, by decide, rfl⟩

theorem witness_returned_abort :
    nackTen.quiet = true ∧ nackTen.placeOk = true ∧ nackTen.st = .startAddr ∧
    ∃ t, runWith prm 45 nackTen = .next t ∧ t.st = .idle ∧ t.result = 4 :=
  ⟨by decide, by decide, by decide, ⟨_, rfl, rfl, rfl⟩⟩

/-- A Transmit of two bytes whose second poll finds a NACK, and which then runs to its end. -/
def nackOnce : State :=
  { busyAt .startAddr (workOf (descOf 0 2 0) 0 0 0 false) 0x80 0x00 with
    turns := [.engine, .engine, .engine, .bus .primary .startDone, .bus .primary .txReady, .engine, .engine, .engine,
      .bus .primary .nack, .engine, .engine, .engine, .bus .primary .startDone, .bus .primary .txReady, .engine, .engine,
      .engine, .bus .primary .txReady, .engine, .engine, .engine, .engine, .engine, .bus .primary .stopDone] }

/-- A NACK taken: under `ResendByte` two bytes are written, under `RestartMessage` three. -/
theorem witness_returned_nack :
    nackOnce.quiet = true ∧ nackOnce.placeOk = true ∧ nackOnce.st = .startAddr ∧
    (∃ t, runWith { nackPolicy := .resendByte } 27 nackOnce = .next t ∧ t.st = .idle ∧ t.result = 0 ∧
      (traceWith { nackPolicy := .resendByte } 27 nackOnce).countP isNackSeen = 1 ∧
      (traceWith { nackPolicy := .resendByte } 27 nackOnce).countP isWriteTx = 2) ∧
    (∃ t, runWith prm 27 nackOnce = .next t ∧ t.st = .idle ∧ t.result = 0 ∧
      (traceWith prm 27 nackOnce).countP isWriteTx = 3) :=
  ⟨by decide, by decide, by decide, ⟨_, rfl, rfl, rfl, by decide, by decide⟩, ⟨_, rfl, rfl, rfl, by decide⟩⟩

/-- A single-byte Receive that aborts in S_RX: ten NACKs after the STOP of S_WAIT_STT, so two AssertStops (log entry
24). -/
def nackTenAfterStop : State :=
  { busyAt .startAddr (workOf (descOf 1 0 1) 0 0 0 false) 0x80 0x00 with
    turns := [.engine, .engine, .engine, .engine, .bus .primary .startDone, .engine, .engine] ++
      (List.replicate 10 [.bus .primary .nack, .engine, .engine, .engine]).flatten }

theorem witness_returned_abort_single_byte :
    nackTenAfterStop.quiet = true ∧ nackTenAfterStop.placeOk = true ∧ nackTenAfterStop.st = .startAddr ∧
    (∃ t, runWith prm 49 nackTenAfterStop = .next t ∧ t.st = .idle ∧ t.result = 4) ∧
    (traceWith prm 49 nackTenAfterStop).countP isSttDone = 1 ∧
    (traceWith prm 49 nackTenAfterStop).countP isAssertStop = 2 :=
  ⟨by decide, by decide, by decide, ⟨_, rfl, rfl, rfl⟩, by decide, by decide⟩

theorem witness_EngineWritesMemoryOnlyWhereItsRulesSay :
    let s := { busyAt .rxStore (workOf (descOf 1 0 1) 0 0 0 true) 0x80 0x00 with ret := 0xA5 }
    s.quiet = true ∧ Memory.wf s.mem = true ∧
    ∃ t, stepWith prm s = .next t ∧ t.memRead 0x0300 ≠ s.memRead 0x0300 :=
  ⟨by decide, by decide, ⟨_, rfl, by decide⟩⟩

theorem witness_OtherUnitNeitherChangesNorMatters :
    UnitId.secondary ≠ (busyAt .txPoll (workOf (descOf 0 1 0) 0 0 0 false) 0x90 0x02).w.u ∧
    (busyAt .txPoll (workOf (descOf 0 1 0) 0 0 0 false) 0x90 0x02).st.st ≠ .S_ENTRY ∧
    ∃ t, stepWith prm (busyAt .txPoll (workOf (descOf 0 1 0) 0 0 0 false) 0x90 0x02) = .next t :=
  ⟨by decide, by decide, ⟨_, rfl⟩⟩

theorem witness_TransmitPollsForEverWithoutEvents :
    (busyAt .txPoll (workOf (descOf 0 1 0) 0 0 0 false) 0x92 0x00).busy = true ∧
    ((busyAt .txPoll (workOf (descOf 0 1 0) 0 0 0 false) 0x92 0x00).regs .primary).txrdy = false ∧
    ((busyAt .txPoll (workOf (descOf 0 1 0) 0 0 0 false) 0x92 0x00).regs .primary).nack = false := by decide

theorem witness_slaves_at_startAddr :
    (busyAt .startAddr (workOf (descOf 0 3 0) 0 0 0 false) 0x80 0x00).placeOk = true ∧
    (busyAt .startAddr (workOf (descOf 0 3 0) 0 0 0 false) 0x80 0x00).unitOk .primary = true ∧
    ((busyAt .startAddr (workOf (descOf 0 3 0) 0 0 0 false) 0x80 0x00).regs .primary).txrdy = false ∧
    3 ≤ (descOf 0 3 0).outLen.toNat := by decide

/-- V-TXN-1's record and a Receive of two bytes, with the unit active. -/
theorem witness_slaves_at_idle :
    let s := idleWith 0x0110 [0, 0, 0x48, 0, 0, 0x02, 5, 0, 0, 0, 0, 0x03, 0x01, 0]
    let s' := idleWith 0x0110 [0, 1, 0x48, 0, 0, 0x02, 0, 0, 2, 0, 0, 0x03, 0x01, 0]
    (s.inv = true ∧ s.busy = false ∧ s.st = .idle ∧ s.turns = [] ∧ s.active.get .primary = true ∧
      (s.descriptorAt 0x0110).valid = 0x01 ∧ (s.descriptorAt 0x0110).interfaceId = UnitId.primary.bit.setWidth 8 ∧
      (s.descriptorAt 0x0110).direction = 0 ∧ 0 < (s.descriptorAt 0x0110).outLen.toNat) ∧
    (s'.inv = true ∧ (s'.regs .primary).rxrdy = false ∧ (s'.descriptorAt 0x0110).direction = 1 ∧
      (s'.descriptorAt 0x0110).respLen.toNat ≤ [(0x11 : Byte), 0x22].length) := by decide

end Sys2Proof.Tests
end

section
/-! PROOFS. The laws of a step that the invariants rest on: whose move it was, what the engine's register access leaves
in the state, and what its other steps leave. Each is said once here and cited by the proofs below. -/

namespace Sys2Proof.Machine

/-! ## Whose move it was -/

/-- Where a command starts when it is accepted (R80 to R84). -/
inductive CommandStart : EngineState → Prop
  | build {ws : List (Half × Byte)} {c : ErrorCode} (hc : c = .noError ∨ c = .badParameters) :
    CommandStart (.build ws c)
  | activateNull : CommandStart (.actRaise .notInitialized)
  | activateLoad (ptr : Half) : CommandStart (.actLoad ptr [])
  | executeNull : CommandStart (.entryRaise .notInitialized)
  | executeLoad (ptr : Half) : CommandStart (.entryLoad ptr [])

/-- What each agent's move makes of a state (R5, R53, R160); `rest` are the moves still to come. -/
inductive AgentMove (p : Params) (s t : State) : Prop
  | engine (rest : List Turn) (h : engineStep p { s with turns := rest } = .next t)
  | bus (rest : List Turn) (u : UnitId) (e : BusEvent) (h : t = { s with turns := rest }.busEvent u e)
  | submit (rest : List Turn) (first : EngineState) (hf : CommandStart first) (hb : s.busy = false)
    (h : t = { s with turns := rest, busy := true, st := first })
  | hostWrite (rest : List Turn) (a : Half) (b : Byte) (h : t = { s with turns := rest }.memWrite a b)
  | powerOn (rest : List Turn) (hd : s.turns.head? = some .powerOn) (h : t = { State.reset with turns := rest })

/-- The place a frame's command is accepted at is where a command starts. -/
theorem decodeFrame_commandStart {bytes : List Byte} {i : Instr} {first : EngineState}
    (hd : decodeFrame bytes = .ok i) (hx : ∀ s : State, exec i s = s.accept first) : CommandStart first := by
  obtain ⟨first', hx', hi⟩ := decodeFrame_command hd
  have hsame : first' = first := by
    have h := (hx' State.reset).symm.trans (hx State.reset)
    simpa [State.accept, State.reset] using h
  subst hsame
  rcases hi with ⟨q, id, clk, div, -, rfl⟩ | ⟨q, -, rfl⟩ | ⟨q, id, o, n, a, d, r, rp, -, rfl⟩ | ⟨q, -, rfl⟩
  · obtain ⟨ws, c, h, hc⟩ := buildcfgPlan_build q id clk div
    exact h ▸ .build hc
  · split
    · exact .activateNull
    · exact .activateLoad q
  · obtain ⟨ws, c, h, hc⟩ := buildtxnPlan_build q id o n a d r rp
    exact h ▸ .build hc
  · split
    · exact .executeNull
    · exact .executeLoad q

/-- A step that gives a next state is one agent's move. -/
theorem stepWith_agentMove {p : Params} {s t : State} (h : stepWith p s = .next t) : AgentMove p s t := by
  rcases stepWith_next h with ⟨ht, he⟩ | ⟨rest, -, he⟩ | ⟨u, e, rest, -, he⟩ |
    ⟨bytes, rest, i, first, -, hd, hx, hb, he⟩ | ⟨a, b, rest, -, -, he⟩ | ⟨rest, ht, he⟩
  · refine .engine [] ?_
    rw [← ht]
    exact he
  · exact .engine rest he
  · exact .bus rest u e he
  · exact .submit rest first (decodeFrame_commandStart hd hx) hb he
  · exact .hostWrite rest a b he
  · exact .powerOn rest (by rw [ht]; rfl) he

/-! ## The engine's register access -/

/-- What a primitive makes of its unit's `ACTIVE` bit: only DisableUnit and EnableUnit write it (R101, R102). -/
def activeAfter (i : Instr) (b : Bool) : Bool :=
  match i with
  | .disableUnit _ => false
  | .enableUnit _ => true
  | _ => b

/-- The state after a primitive: its access made of its unit's register file, `ACTIVE` bit and the value returned. -/
def State.accessed (s : State) (i : Instr) (a : Access) (x : Byte) : State :=
  ((s.setRegs a.unit ((s.regs a.unit).access a.kind a.reg a.data)).setActive a.unit
    (activeAfter i (s.active.get a.unit))).setRet x

section
variable (s : State) (i : Instr) (a : Access) (x : Byte)
@[simp] theorem State.accessed_w : (s.accessed i a x).w = s.w := rfl
@[simp] theorem State.accessed_st : (s.accessed i a x).st = s.st := rfl
@[simp] theorem State.accessed_busy : (s.accessed i a x).busy = s.busy := rfl
@[simp] theorem State.accessed_mem : (s.accessed i a x).mem = s.mem := rfl
@[simp] theorem State.accessed_regs :
    (s.accessed i a x).regs a.unit = (s.regs a.unit).access a.kind a.reg a.data := by simp [State.accessed]
@[simp] theorem State.accessed_active :
    (s.accessed i a x).active.get a.unit = activeAfter i (s.active.get a.unit) := by simp [State.accessed]
theorem State.accessed_regs_other {v : UnitId} (h : v ≠ a.unit) : (s.accessed i a x).regs v = s.regs v := by
  simp [State.accessed, State.setRegs_regs_other _ _ _ h]
theorem State.accessed_active_other {v : UnitId} (h : v ≠ a.unit) :
    (s.accessed i a x).active.get v = s.active.get v := by
  simp [State.accessed, PerUnit.get_set_other _ _ h]
end

/-- A shift into the two `SSEL` bits loses all but the two lowest bits (R106). -/
theorem clockMask_eq_shift (c : Byte) : (c &&& 0x03) <<< 6 = c <<< 6 := by revert c; decide

/-- A primitive does the access it is encoded as, and answers the accessed state (R71, R100). -/
theorem exec_accessed {i : Instr} {a : Access} (h : i.access = some a) (s : State) :
    ∃ x, exec i s = .next (s.accessed i a x) := by
  have poke : ∀ k u reg d, s.poke k u reg d =
      ((s.setRegs u ((s.regs u).access k reg d)).setActive u (s.active.get u)).setRet s.ret := by
    intro k u reg d
    cases u <;> rfl
  have peek : ∀ u reg d, s.peek u reg d =
      ((s.setRegs u ((s.regs u).access .RD reg d)).setActive u (s.active.get u)).setRet ((s.regs u).get reg &&& d) := by
    intro u reg d
    cases u <;> rfl
  cases i <;> simp only [Instr.access, Option.some.injEq, reduceCtorEq] at h <;> subst h
  case disableUnit | enableUnit => exact ⟨s.ret, rfl⟩
  case selectClock u c =>
    refine ⟨s.ret, congrArg Host.Outcome.next ?_⟩
    rw [clockMask_eq_shift]
    exact poke ..
  case readTxRdy | readRxRdy | readNack | readSttPending | readStpPending | readRx =>
    exact ⟨_, congrArg Host.Outcome.next (peek ..)⟩
  all_goals exact ⟨s.ret, congrArg Host.Outcome.next (poke ..)⟩

/-- A step of the engine is the access it issues, to the unit its command addresses, and what it makes of that; or it is
no access (R50). -/
theorem engineStep_cases {p : Params} {s t : State} (h : engineStep p s = .next t) :
    (∃ i a x, s.issue = some i ∧ i.access = some a ∧ a.unit = s.w.u ∧ t = (s.accessed i a x).advance p) ∨
    (s.issue = none ∧ t = s.internal) := by
  unfold engineStep at h
  cases hi : s.issue with
  | none =>
    simp only [hi, Host.Outcome.next.injEq] at h
    exact .inr ⟨rfl, h.symm⟩
  | some i =>
    obtain ⟨a, ha, hu⟩ := State.issue_access hi
    obtain ⟨x, hx⟩ := exec_accessed ha s
    simp only [hi, hx, Host.Outcome.next.injEq] at h
    exact .inl ⟨i, a, x, rfl, ha, hu, h.symm⟩

/-- What the engine makes of an access leaves everything outside its working registers and `st`. -/
theorem State.advance_frame (s : State) (p : Params) :
    (s.advance p).mem = s.mem ∧ (s.advance p).units = s.units ∧ (s.advance p).active = s.active ∧
      (s.advance p).busy = s.busy ∧ (s.advance p).w.u = s.w.u := by
  obtain ⟨w, st, h, -, -, hu⟩ := State.advance_eq s p
  rw [h]
  exact ⟨rfl, rfl, rfl, rfl, hu⟩

/-! ## Where the engine's access leads -/

/-- The places from which the engine issues an access: in EXECUTE's state machine, or among ACTIVATE's ten (R82,
R130). -/
theorem State.issue_place {s : State} {i : Instr} (h : s.issue = some i) :
    s.st.inExecute = true ∨ ∃ k, s.st = .act k := by
  unfold State.issue at h
  cases hst : s.st <;> simp only [hst, reduceCtorEq] at h
  case act k => exact .inr ⟨k, rfl⟩
  all_goals exact .inl rfl

theorem afterTransmit_inExecute (w : Working) : (afterTransmit w).inExecute = true := by
  unfold afterTransmit
  split <;> rfl

theorem rxLoop_inExecute (w : Working) : (rxLoop w).inExecute = true := by
  unfold rxLoop
  split <;> rfl

/-- An access of EXECUTE leads to another place of EXECUTE. -/
theorem State.advance_inExecute {s : State} (p : Params) (h : s.st.inExecute = true) :
    (s.advance p).st.inExecute = true := by
  unfold State.advance
  cases hst : s.st <;> simp only [hst, State.setSt_st] at h ⊢
  case idle | entryLoad | entryRaise | actLoad | act | actRaise | build => cases h
  case startAddr =>
    simp only [State.afterAddr, State.setSt_st]
    split
    · rfl
    · exact afterTransmit_inExecute _
  case txClear => exact afterTransmit_inExecute _
  case prepStt =>
    split
    · rfl
    · exact rxLoop_inExecute _
  case sttStop => exact rxLoop_inExecute _
  case txWrite =>
    unfold State.afterWrite
    dsimp only
    split <;> rfl
  case txNack =>
    unfold State.afterTxNack
    split
    · rfl
    · dsimp only
      split <;> rfl
  case rxNack =>
    unfold State.afterRxNack
    split
    · rfl
    · dsimp only
      split <;> rfl
  case txPoll | sttPoll | stpPoll => split <;> rfl
  case rxPoll =>
    split
    · split <;> rfl
    · rfl
  all_goals rfl

/-- An access of ACTIVATE leads to the next of its places. -/
theorem State.advance_act {s : State} {k : ActStep} (p : Params) (h : s.st = .act k) :
    s.advance p = s.setSt k.next := by
  simp only [State.advance, h]

/-! ## Places at which no unit is amid ACTIVATE -/

/-- A command is running, and of ACTIVATE's ten accesses none is done: the places at which `State.unitOk` asks the same
of every unit. -/
def EngineState.Settled (e : EngineState) : Prop := e.st ≠ .S_IDLE ∧ ∀ k, e = .act k → k = .hold

theorem EngineState.settled_of_inExecute {e : EngineState} (h : e.inExecute = true) : e.Settled := by
  constructor
  · intro he
    simp [EngineState.inExecute, he] at h
  · rintro k rfl
    cases h

theorem CommandStart.settled {e : EngineState} (h : CommandStart e) : e.Settled := by
  cases h <;> exact ⟨nofun, nofun⟩

/-! ## The engine's other steps -/

/-- A byte of `LoadConfig` changes `w` and `st` alone. -/
theorem State.loadConfig_eq (s : State) (ptr : Half) (got : List Byte) :
    ∃ w st, s.loadConfig ptr got = { s with w := w, st := st } ∧ st.Settled := by
  unfold State.loadConfig State.activateChecks
  dsimp only
  split
  · exact ⟨_, _, rfl, nofun, nofun⟩
  · split
    · exact ⟨_, _, rfl, nofun, nofun⟩
    · split
      · exact ⟨_, _, rfl, nofun, nofun⟩
      · exact ⟨_, _, rfl, nofun, fun k hk => (EngineState.act.inj hk).symm⟩

/-- A byte of `LoadDescriptor` changes `w` and `st` alone. -/
theorem State.loadDescriptor_eq (s : State) (ptr : Half) (got : List Byte) :
    ∃ w st, s.loadDescriptor ptr got = { s with w := w, st := st } ∧ st.Settled := by
  unfold State.loadDescriptor State.executeChecks
  dsimp only
  split
  · exact ⟨_, _, rfl, nofun, nofun⟩
  · split
    · exact ⟨_, _, rfl, nofun, nofun⟩
    · split
      · exact ⟨_, _, rfl, nofun, nofun⟩
      · split <;> exact ⟨_, _, rfl, nofun, nofun⟩

/-- What a step of the engine that is no register access makes of a state: nothing in S_IDLE, a `raise`, a step that
changes working registers, `st` and `ret`, or one that also writes a byte of host memory. -/
inductive InternalMove (s : State) : State → Prop
  | idle (h : s.st = .idle) : InternalMove s s
  | raise (c : ErrorCode) : InternalMove s (s.raise c)
  | load (w : Working) (st : EngineState) (x : Byte) (hs : s.st.st ≠ .S_IDLE) (hst : st.Settled) :
    InternalMove s { s with w := w, st := st, ret := x }
  | store (a : Half) (b : Byte) (w : Working) (st : EngineState) (hs : s.st.st ≠ .S_IDLE) (hst : st.Settled) :
    InternalMove s { s.memWrite a b with w := w, st := st }

theorem State.internal_move {s : State} (h : s.issue = none) : InternalMove s s.internal := by
  unfold State.internal
  cases hst : s.st <;> simp only [State.issue, hst, reduceCtorEq] at h ⊢
  case idle => exact .idle hst
  case entryRaise | txRaise | rxRaise | stop | stpRaise | actRaise => exact .raise _
  case entryLoad ptr got =>
    obtain ⟨w, st, he, hset⟩ := s.loadDescriptor_eq ptr got
    exact he ▸ .load w st s.ret (by simp [hst, EngineState.st]) hset
  case actLoad ptr got =>
    obtain ⟨w, st, he, hset⟩ := s.loadConfig_eq ptr got
    exact he ▸ .load w st s.ret (by simp [hst, EngineState.st]) hset
  case txFetch => exact .load s.w .txWrite _ (by simp [hst, EngineState.st]) ⟨nofun, nofun⟩
  case rxStore =>
    exact .store _ _ _ _ (by simp [hst, EngineState.st]) (EngineState.settled_of_inExecute (rxLoop_inExecute _))
  case build ws c =>
    cases ws with
    | nil => exact .raise c
    | cons x rest => exact .store x.1 x.2 s.w _ (by simp [hst, EngineState.st]) ⟨nofun, nofun⟩

/-- A step of the engine that is no register access leaves the units' registers and their `ACTIVE` bits. -/
theorem InternalMove.frame {s t : State} (h : InternalMove s t) : t.units = s.units ∧ t.active = s.active := by
  cases h <;> exact ⟨rfl, rfl⟩

end Sys2Proof.Machine
end

section
/-! PROOFS. The host's moves (R28, R41), and three invariants that every step keeps: host memory is canonical (R28),
reserved bits are 0 (R17), and `BUSY` agrees with `st` (R12, R14). -/

namespace Sys2Proof.Machine

/-! ## The host's moves -/

/-- Settles O24: the host's write is `State.memWrite` while `BUSY` = 0, and both its moves are refused while it is 1. -/
theorem hostActsOnlyWhileIdle : Obligations.HostActsOnlyWhileIdle := by
  intro prm s a b bytes i rest hwf
  refine ⟨fun ht hb => ?_, fun ht hb => ?_, fun ht hb hd => ?_⟩
  · refine ⟨({ s with turns := rest } : State).memWrite a b, ?_, rfl, ?_, fun x hx => ?_⟩
    · simp only [stepWith, ht, State.hostWrite, hb]
      rfl
    · exact State.memRead_memWrite_same a b hwf
    · exact State.memRead_memWrite_other b hwf hx
  · simp only [stepWith, ht, State.hostWrite, hb, if_true]
  · obtain ⟨first, hx, -⟩ := decodeFrame_command hd
    simp only [stepWith, ht, submitFrame, hd, hx, State.accept, hb, if_true]

/-! ## Host memory -/

theorem InternalMove.mem_wf {s t : State} (h : InternalMove s t) (hs : Memory.wf s.mem = true) :
    Memory.wf t.mem = true := by
  cases h with
  | idle | raise | load => exact hs
  | store a b => exact State.memWrite_wf a b hs

theorem engineStep_mem_wf {p : Params} {s t : State} (h : engineStep p s = .next t) (hs : Memory.wf s.mem = true) :
    Memory.wf t.mem = true := by
  rcases engineStep_cases h with ⟨i, a, x, -, -, -, rfl⟩ | ⟨hi, rfl⟩
  · obtain ⟨hmem, -, -, -, -⟩ := State.advance_frame (s.accessed i a x) p
    rw [hmem]
    exact hs
  · exact (State.internal_move hi).mem_wf hs

/-- Settles O25, by whose move the step was: only one-byte writes change host memory. -/
theorem stepKeepsMemoryCanonical : Obligations.StepKeepsMemoryCanonical := by
  intro s t hs h
  cases stepWith_agentMove h with
  | engine rest he => exact engineStep_mem_wf he hs
  | bus rest u e he =>
    rw [he, State.busEvent_eq]
    exact hs
  | submit rest first hf hb he => rw [he]; exact hs
  | hostWrite rest a b he => rw [he]; exact State.memWrite_wf a b hs
  | powerOn rest hd he => rw [he]; exact Memory.reset_wf

/-! ## Reserved bits -/

theorem UnitRegs.reservedZero_iff (r : UnitRegs) :
    r.reservedZero = true ↔ ∀ reg, r.get reg &&& ~~~existingMask reg = 0 := by
  have full : ∀ x : Byte, x &&& ~~~(0xFF : Byte) = 0 := by decide
  simp only [UnitRegs.reservedZero, Bool.and_eq_true, beq_iff_eq]
  constructor
  · rintro ⟨⟨⟨h0, h1⟩, hi⟩, hp⟩ reg
    cases reg
    case CTL0 => exact h0
    case CTL1 => exact h1
    case IFG => exact hi
    case PSEL => exact hp
    all_goals exact full _
  · intro h
    exact ⟨⟨⟨h .CTL0, h .CTL1⟩, h .IFG⟩, h .PSEL⟩

/-- What a register reads after one is replaced. -/
theorem UnitRegs.get_put (r : UnitRegs) (reg reg' : UnitReg) (v : Byte) :
    (r.put reg v).get reg' = if reg' = reg then v else r.get reg' := by
  cases reg <;> cases reg' <;> rfl

/-- A register whose reserved bits are 0 may replace one of a file whose reserved bits are 0. -/
theorem UnitRegs.put_reservedZero {r : UnitRegs} {reg : UnitReg} {v : Byte} (h : r.reservedZero = true)
    (hv : v &&& ~~~existingMask reg = 0) : (r.put reg v).reservedZero = true := by
  rw [UnitRegs.reservedZero_iff] at h ⊢
  intro reg'
  rw [UnitRegs.get_put]
  split
  next he =>
    rw [he]
    exact hv
  · exact h reg'

/-- Clearing bits leaves reserved bits 0. -/
theorem and_reserved {x m : Byte} (y : Byte) (h : x &&& ~~~m = 0) : (x &&& y) &&& ~~~m = 0 := by
  rw [BitVec.and_assoc, BitVec.and_comm y, ← BitVec.and_assoc, h]
  exact BitVec.zero_and

/-- Setting existing bits leaves reserved bits 0. -/
theorem or_reserved {x y m : Byte} (hx : x &&& ~~~m = 0) (hy : y &&& ~~~m = 0) : (x ||| y) &&& ~~~m = 0 := by
  rw [BitVec.and_or_distrib_right, hx, hy]
  rfl

theorem UnitRegs.clearIfg_reservedZero {r : UnitRegs} (m : Byte) (h : r.reservedZero = true) :
    (r.clearIfg m).reservedZero = true :=
  UnitRegs.put_reservedZero (reg := .IFG) h (and_reserved _ ((UnitRegs.reservedZero_iff r).1 h .IFG))

/-- A side effect clears bits of `IFG` or does nothing (R51). -/
theorem UnitRegs.sideEffect_reservedZero {r : UnitRegs} (kind : AccessKind) (reg : UnitReg) (d : Byte)
    (h : r.reservedZero = true) : (r.sideEffect kind reg d).reservedZero = true := by
  unfold UnitRegs.sideEffect
  split
  · exact UnitRegs.clearIfg_reservedZero _ h
  · exact UnitRegs.clearIfg_reservedZero _ h
  · split
    · exact UnitRegs.clearIfg_reservedZero _ h
    · exact h
  · split
    · exact UnitRegs.clearIfg_reservedZero _ h
    · exact h
  · exact h

/-- Every writable bit exists. -/
theorem and_writableMask_reserved (d : Byte) (reg : UnitReg) :
    (d &&& writableMask reg) &&& ~~~existingMask reg = 0 := by
  have h : writableMask reg &&& ~~~existingMask reg = 0 := by cases reg <;> decide
  rw [BitVec.and_assoc, h]
  exact BitVec.and_zero

theorem accessValue_reserved (kind : AccessKind) {reg : UnitReg} {old : Byte} (d : Byte)
    (h : old &&& ~~~existingMask reg = 0) : accessValue kind reg old d &&& ~~~existingMask reg = 0 := by
  cases kind with
  | RD => exact h
  | WR => exact or_reserved (and_reserved _ h) (and_writableMask_reserved d reg)
  | SET => exact or_reserved h (and_writableMask_reserved d reg)
  | CLR => exact and_reserved _ h

/-- An access keeps the reserved bits 0 (R17). -/
theorem UnitRegs.access_reservedZero {r : UnitRegs} (kind : AccessKind) (reg : UnitReg) (d : Byte)
    (h : r.reservedZero = true) : (r.access kind reg d).reservedZero = true :=
  UnitRegs.sideEffect_reservedZero kind reg d
    (UnitRegs.put_reservedZero h (accessValue_reserved kind d ((UnitRegs.reservedZero_iff r).1 h reg)))

/-- A bus event keeps the reserved bits 0 (R166). -/
theorem BusEvent.effect_reservedZero (e : BusEvent) {r : UnitRegs} (h : r.reservedZero = true) :
    (e.effect r).reservedZero = true := by
  have hget := (UnitRegs.reservedZero_iff r).1 h
  cases e with
  | startDone | stopDone => exact UnitRegs.put_reservedZero (reg := .CTL1) h (and_reserved _ (hget .CTL1))
  | txReady | nack => exact UnitRegs.put_reservedZero (reg := .IFG) h (or_reserved (hget .IFG) rfl)
  | rxByte b =>
    have hb : (r.put .RXBUF b).reservedZero = true := h
    exact UnitRegs.put_reservedZero (reg := .IFG) hb (or_reserved (hget .IFG) rfl)

theorem State.reservedZero_iff (s : State) : s.reservedZero = true ↔ ∀ u, (s.regs u).reservedZero = true := by
  simp only [State.reservedZero, Bool.and_eq_true]
  exact ⟨fun h u => by cases u; exacts [h.1, h.2], fun h => ⟨h .primary, h .secondary⟩⟩

theorem State.reset_reservedZero (u : UnitId) : (State.reset.regs u).reservedZero = true := by cases u <;> decide

theorem engineStep_reservedZero {p : Params} {s t : State} (h : engineStep p s = .next t)
    (hs : ∀ u, (s.regs u).reservedZero = true) (u : UnitId) : (t.regs u).reservedZero = true := by
  rcases engineStep_cases h with ⟨i, a, x, -, -, -, rfl⟩ | ⟨hi, rfl⟩
  · obtain ⟨-, hunits, -, -, -⟩ := State.advance_frame (s.accessed i a x) p
    rw [State.regs, hunits, ← State.regs]
    by_cases hu : u = a.unit
    · rw [hu, State.accessed_regs]
      exact UnitRegs.access_reservedZero _ _ _ (hs a.unit)
    · rw [State.accessed_regs_other s i a x hu]
      exact hs u
  · rw [State.regs, (State.internal_move hi).frame.1]
    exact hs u

/-- Settles O26, by whose move the step was: accesses write existing bits alone, and events likewise. -/
theorem stepKeepsReservedBitsZero : Obligations.StepKeepsReservedBitsZero := by
  intro s t hs h
  rw [State.reservedZero_iff] at hs ⊢
  intro u
  cases stepWith_agentMove h with
  | engine rest he => exact engineStep_reservedZero he hs u
  | bus rest v e he =>
    rw [he, State.busEvent_eq]
    by_cases hu : u = v
    · subst hu
      rw [State.setRegs_regs]
      split
      · exact e.effect_reservedZero (hs u)
      · exact hs u
    · rw [State.setRegs_regs_other _ _ _ hu]
      exact hs u
  | submit rest first hf hb he => rw [he]; exact hs u
  | hostWrite rest a b he => rw [he]; exact hs u
  | powerOn rest hd he => rw [he]; exact State.reset_reservedZero u

/-! ## `BUSY` and `st` -/

theorem State.busyOk_iff (s : State) : s.busyOk = true ↔ (s.busy = true ↔ s.st.st ≠ .S_IDLE) := by
  simp only [State.busyOk, beq_iff_eq]
  rw [Bool.eq_iff_iff, bne_iff_ne]

theorem ActStep.next_st (k : ActStep) : k.next.st = .S_ACT := by cases k <;> rfl

/-- No access ends a command. -/
theorem State.advance_st_ne_idle {s : State} (p : Params) (h : s.st.inExecute = true ∨ ∃ k, s.st = .act k) :
    (s.advance p).st.st ≠ .S_IDLE := by
  rcases h with h | ⟨k, h⟩
  · exact (EngineState.settled_of_inExecute (State.advance_inExecute p h)).1
  · rw [State.advance_act p h, State.setSt_st, ActStep.next_st]
    exact nofun

/-- A place from which the engine issues an access is not S_IDLE. -/
theorem State.issue_ne_idle {s : State} {i : Instr} (h : s.issue = some i) : s.st.st ≠ .S_IDLE := by
  rcases State.issue_place h with h | ⟨k, h⟩
  · exact (EngineState.settled_of_inExecute h).1
  · rw [h]
    exact nofun

theorem engineStep_busyOk {p : Params} {s t : State} (h : engineStep p s = .next t) (hs : s.busyOk = true) :
    t.busyOk = true := by
  rw [State.busyOk_iff] at hs ⊢
  rcases engineStep_cases h with ⟨i, a, x, hi, -, -, rfl⟩ | ⟨hi, ht⟩
  · obtain ⟨-, -, -, hbusy, -⟩ := State.advance_frame (s.accessed i a x) p
    rw [hbusy]
    exact iff_of_true (hs.2 (State.issue_ne_idle hi))
      (State.advance_st_ne_idle (s := s.accessed i a x) p (State.issue_place (s := s) hi))
  · have hm : InternalMove s t := ht ▸ State.internal_move hi
    cases hm with
    | idle => exact hs
    | raise c => exact iff_of_false nofun (fun h => h rfl)
    | load w st x hne hst => exact iff_of_true (hs.2 hne) hst.1
    | store a b w st hne hst => exact iff_of_true (hs.2 hne) hst.1

/-- Settles O27, by whose move the step was: acceptance sets `BUSY` and leaves S_IDLE, `raise` undoes both, and every
other move leaves both as they are or goes from one place of a command to another. -/
theorem stepKeepsBusyWithState : Obligations.StepKeepsBusyWithState := by
  intro s t hs h
  cases stepWith_agentMove h with
  | engine rest he => exact engineStep_busyOk he hs
  | bus rest u e he =>
    rw [he, State.busEvent_eq]
    exact hs
  | submit rest first hf hb he =>
    rw [he, State.busyOk_iff]
    exact iff_of_true rfl hf.settled.1
  | hostWrite rest a b he => rw [he]; exact hs
  | powerOn rest hd he => rw [he]; rfl

end Sys2Proof.Machine
end

section
/-! PROOFS. `ACTIVE`, `SWRST`, `CTL0` and `PSEL` of a unit agree at every place (R13, R18, R27, R90), and only the unit's
own ACTIVATE and a reset change its set-up. -/

namespace Sys2Proof.Machine

/-! ## What `State.unitOk` asks -/

/-- `State.unitOk` looks at six things: where ACTIVATE is for the unit, its `ACTIVE` bit, `SWRST`, `CTL0` and `PSEL`. -/
theorem State.unitOk_congr {s t : State} {u : UnitId} (hk : t.activating u = s.activating u)
    (ha : t.active.get u = s.active.get u) (hr : (t.regs u).swrst = (s.regs u).swrst)
    (hc : (t.regs u).ctl0 = (s.regs u).ctl0) (hp : (t.regs u).psel = (s.regs u).psel) :
    t.unitOk u = s.unitOk u := by
  simp only [State.unitOk, hk, ha, hr, hc, hp]

/-- The agreement of a unit amid no ACTIVATE: active exactly when released (R13), `CTL0` `0x00` or `0x0F` (R18), and
configured with its pins routed when active (R27). -/
structure UnitRegs.Agrees (r : UnitRegs) (active : Bool) : Prop where
  release : active = !r.swrst
  modes : r.ctl0 = 0x00 ∨ r.ctl0 = 0x0F
  setUp : active = true → r.ctl0 = 0x0F ∧ r.psel = 0x03

theorem State.unitOk_iff_agrees {s : State} {u : UnitId} (h : s.activating u = none ∨ s.activating u = some .hold) :
    s.unitOk u = true ↔ (s.regs u).Agrees (s.active.get u) := by
  have hiff : s.unitOk u = true ↔ (s.active.get u = !(s.regs u).swrst) ∧
      ((s.regs u).ctl0 = 0x00 ∨ (s.regs u).ctl0 = 0x0F) ∧
      (s.active.get u = true → (s.regs u).ctl0 = 0x0F ∧ (s.regs u).psel = 0x03) := by
    rcases h with h | h <;> cases hb : s.active.get u <;> simp [State.unitOk, h, hb, and_assoc]
  rw [hiff]
  exact ⟨fun ⟨h1, h2, h3⟩ => ⟨h1, h2, h3⟩, fun ⟨h1, h2, h3⟩ => ⟨h1, h2, h3⟩⟩

/-- A unit held in reset and marked inactive, with `CTL0` as it was, agrees again. -/
theorem UnitRegs.Agrees.held {r r' : UnitRegs} {b : Bool} (h : r.Agrees b) (hr : r'.swrst = true)
    (hc : r'.ctl0 = r.ctl0) : r'.Agrees false :=
  ⟨by rw [hr]; rfl, hc ▸ h.modes, nofun⟩

theorem State.activating_of_calm {s : State} (u : UnitId) (h : ∀ k, s.st = .act k → k = .hold) :
    s.activating u = none ∨ s.activating u = some .hold := by
  unfold State.activating
  split
  next k hk =>
    rw [h k hk]
    split
    · exact .inr rfl
    · exact .inl rfl
  · exact .inl rfl

theorem State.activating_none {s : State} (u : UnitId) (h : ∀ k, s.st ≠ .act k) : s.activating u = none := by
  unfold State.activating
  split
  next k hk => exact absurd hk (h k)
  · rfl

theorem State.activating_other {s : State} {u : UnitId} (h : s.w.u ≠ u) : s.activating u = none := by
  unfold State.activating
  split
  · exact if_neg h
  · rfl

/-! ## Accesses that leave the set-up -/

/-- The fields that only ACTIVATE writes: `CTL0`, `SSEL`, the divisor and `PSEL` (R27). -/
structure UnitRegs.SameSetup (r r' : UnitRegs) : Prop where
  ctl0 : r'.ctl0 = r.ctl0
  ssel : r'.ssel = r.ssel
  brl : r'.brl = r.brl
  brh : r'.brh = r.brh
  psel : r'.psel = r.psel

theorem UnitRegs.SameSetup.refl (r : UnitRegs) : r.SameSetup r := ⟨rfl, rfl, rfl, rfl, rfl⟩

/-- An access that writes none of the fields of the set-up: of `SA`, `IFG` or a buffer, or of bits of `CTL1` other than
`SSEL`. -/
def keepsSetup (a : Access) : Bool :=
  match a.reg with
  | .SA | .IFG | .TXBUF | .RXBUF => true
  | .CTL1 => a.kind != .WR && a.data.extractLsb' 6 2 == 0
  | .CTL0 | .BRL | .BRH | .PSEL => false

/-- An access that does not write `SWRST`. -/
def keepsRelease (a : Access) : Bool := a.reg != .CTL1 || (a.kind != .WR && a.data.getLsbD 0 == false)

/-- A side effect changes `IFG` alone (R51). -/
theorem UnitRegs.sideEffect_eq (r : UnitRegs) (kind : AccessKind) (reg : UnitReg) (d : Byte) :
    ∃ f, r.sideEffect kind reg d = { r with ifg := f } := by
  unfold UnitRegs.sideEffect
  split
  · exact ⟨_, rfl⟩
  · exact ⟨_, rfl⟩
  · split <;> exact ⟨_, rfl⟩
  · split <;> exact ⟨_, rfl⟩
  · exact ⟨_, rfl⟩

/-- An access that does not write its whole register leaves each bit that its data does not name (R50). -/
theorem accessValue_bit {kind : AccessKind} (reg : UnitReg) (old : Byte) {d : Byte} {n : Nat} (hk : kind ≠ .WR)
    (hd : d.getLsbD n = false) : (accessValue kind reg old d).getLsbD n = old.getLsbD n := by
  cases kind with
  | RD => rfl
  | WR => exact absurd rfl hk
  | SET => simp only [accessValue, BitVec.getLsbD_or, BitVec.getLsbD_and, hd, Bool.false_and, Bool.or_false]
  | CLR =>
    have hn : old.getLsbD n = true → n < 8 := BitVec.lt_of_getLsbD
    simp only [accessValue, BitVec.getLsbD_and, BitVec.getLsbD_not, hd, Bool.false_and, Bool.not_false, Bool.and_true]
    simpa using hn

/-- An access that does not write all of `CTL1` and names no bit of `SSEL` leaves `SSEL`. -/
theorem accessValue_ssel {kind : AccessKind} (old : Byte) {d : Byte} (hk : kind ≠ .WR)
    (hd : d.extractLsb' 6 2 = 0) : (accessValue kind .CTL1 old d).extractLsb' 6 2 = old.extractLsb' 6 2 := by
  apply BitVec.eq_of_getElem_eq
  intro i hi
  have hdi : d.getLsbD (6 + i) = false := by
    have h := congrArg (·[i]) hd
    simpa [BitVec.getElem_extractLsb'] using h
  simp only [BitVec.getElem_extractLsb', accessValue_bit .CTL1 old hk hdi]

theorem UnitRegs.access_sameSetup (r : UnitRegs) {a : Access} (h : keepsSetup a = true) :
    r.SameSetup (r.access a.kind a.reg a.data) := by
  obtain ⟨kind, u, reg, d⟩ := a
  obtain ⟨f, hf⟩ := UnitRegs.sideEffect_eq (r.put reg (accessValue kind reg (r.get reg) d)) kind reg d
  simp only [UnitRegs.access, hf]
  cases reg <;> simp only [keepsSetup, Bool.and_eq_true, bne_iff_ne, beq_iff_eq, reduceCtorEq] at h
  case CTL1 => exact ⟨rfl, accessValue_ssel r.ctl1 h.1 h.2, rfl, rfl, rfl⟩
  all_goals exact ⟨rfl, rfl, rfl, rfl, rfl⟩

theorem UnitRegs.access_swrst (r : UnitRegs) {a : Access} (h : keepsRelease a = true) :
    (r.access a.kind a.reg a.data).swrst = r.swrst := by
  obtain ⟨kind, u, reg, d⟩ := a
  obtain ⟨f, hf⟩ := UnitRegs.sideEffect_eq (r.put reg (accessValue kind reg (r.get reg) d)) kind reg d
  simp only [UnitRegs.access, hf]
  cases reg
  case CTL1 =>
    have h' : kind ≠ .WR ∧ d.getLsbD 0 = false := by simpa [keepsRelease] using h
    exact accessValue_bit .CTL1 r.ctl1 h'.1 h'.2
  all_goals rfl

/-- The accesses of EXECUTE leave the set-up; the abort's DisableUnit alone touches `SWRST` and `ACTIVE` (R131 to
R145). -/
theorem State.issue_inExecute {s : State} {i : Instr} {a : Access} (hi : s.issue = some i) (ha : i.access = some a)
    (he : s.st.inExecute = true) :
    keepsSetup a = true ∧ ((keepsRelease a = true ∧ ∀ b, activeAfter i b = b) ∨ ∃ u, i = .disableUnit u) := by
  unfold State.issue at hi
  cases hst : s.st <;> simp only [hst, Option.some.injEq, reduceCtorEq] at hi
  case act => rw [hst] at he; cases he
  case stop =>
    split at hi <;> cases hi
    cases ha
    simp [keepsSetup, keepsRelease, activeAfter]
  case txDisable | rxDisable =>
    subst hi
    cases ha
    simp [keepsSetup]
  all_goals
    subst hi
    cases ha
    simp [keepsSetup, keepsRelease, activeAfter]

/-- DisableUnit holds its unit in reset (R101). -/
theorem UnitRegs.access_disableUnit_swrst (r : UnitRegs) {u : UnitId} {a : Access}
    (h : (Instr.disableUnit u).access = some a) : (r.access a.kind a.reg a.data).swrst = true := by
  cases h
  rw [UnitRegs.set_ctl1 r (d := 0x01) rfl rfl]
  simp [UnitRegs.swrst]

/-- An access of EXECUTE keeps its unit in agreement and leaves the set-up. -/
theorem State.accessed_agrees {s : State} {i : Instr} {a : Access} (x : Byte) (hi : s.issue = some i)
    (ha : i.access = some a) (he : s.st.inExecute = true) (hs : (s.regs a.unit).Agrees (s.active.get a.unit)) :
    ((s.accessed i a x).regs a.unit).Agrees ((s.accessed i a x).active.get a.unit) ∧
      (s.regs a.unit).SameSetup ((s.accessed i a x).regs a.unit) := by
  rw [State.accessed_regs, State.accessed_active]
  obtain ⟨hk, hrel⟩ := State.issue_inExecute hi ha he
  have hset := (s.regs a.unit).access_sameSetup hk
  refine ⟨?_, hset⟩
  rcases hrel with ⟨hr, hb⟩ | ⟨u, rfl⟩
  · rw [hb]
    exact ⟨by rw [UnitRegs.access_swrst _ hr]; exact hs.release, by rw [hset.ctl0]; exact hs.modes,
      by rw [hset.ctl0, hset.psel]; exact hs.setUp⟩
  · exact hs.held (UnitRegs.access_disableUnit_swrst _ ha) hset.ctl0

/-! ## ACTIVATE's ten accesses -/

/-- `PSEL` with both pins routed, when no reserved bit is set (R26, R107). -/
theorem routed_psel {r : UnitRegs} (h : r.reservedZero = true) : r.psel ||| 0x03 = 0x03 := by
  have hb : ∀ x : Byte, x &&& ~~~(0x03 : Byte) = 0 → x ||| 0x03 = 0x03 := by decide
  exact hb _ ((UnitRegs.reservedZero_iff r).1 h .PSEL)

theorem State.activating_self {s : State} {k : ActStep} (h : s.st = .act k) : s.activating s.w.u = some k := by
  simp only [State.activating, h, if_true]

/-- Each access of ACTIVATE leaves its unit as the next of its places asks (R82, R90). -/
theorem engineStep_act_unitOk {p : Params} {s t : State} {k : ActStep} (h : engineStep p s = .next t)
    (hst : s.st = .act k) (hres : (s.regs s.w.u).reservedZero = true) (hs : s.unitOk s.w.u = true) :
    t.unitOk s.w.u = true := by
  simp only [State.unitOk, State.activating_self hst] at hs
  cases k with
  | hold =>
    rw [engineStep_hold p hst] at h
    cases h
    simp [State.unitOk, State.activating, UnitRegs.swrst] at hs ⊢
    obtain ⟨⟨-, hmodes⟩, -⟩ := hs
    exact hmodes
  | zero0 =>
    rw [engineStep_zero0 p hst] at h
    cases h
    simp [State.unitOk, State.activating, UnitRegs.swrst] at hs ⊢
    obtain ⟨hheld, hmodes⟩ := hs
    refine ⟨hheld, ?_⟩
    rcases hmodes with h | h <;> rw [h] <;> rfl
  | zero1 =>
    rw [engineStep_zero1 p hst] at h
    cases h
    simp [State.unitOk, State.activating, UnitRegs.swrst] at hs ⊢
    obtain ⟨⟨-, hactive⟩, hzero⟩ := hs
    exact ⟨hactive, hzero⟩
  | holdAgain =>
    rw [engineStep_holdAgain p hst] at h
    cases h
    simp [State.unitOk, State.activating, UnitRegs.swrst] at hs ⊢
    obtain ⟨-, hzero⟩ := hs
    exact hzero
  | modes =>
    rw [engineStep_modes p hst] at h
    cases h
    simp [State.unitOk, State.activating, UnitRegs.swrst] at hs ⊢
    obtain ⟨hheld, hzero⟩ := hs
    exact ⟨hheld, by rw [hzero]; rfl⟩
  | clock =>
    rw [engineStep_clock p hst] at h
    cases h
    simpa [State.unitOk, State.activating, UnitRegs.swrst] using hs
  | pins =>
    rw [engineStep_pins p hst] at h
    cases h
    simp [State.unitOk, State.activating, UnitRegs.swrst] at hs ⊢
    exact ⟨hs, routed_psel hres⟩
  | baudLow =>
    rw [engineStep_baudLow p hst] at h
    cases h
    simpa [State.unitOk, State.activating, UnitRegs.swrst] using hs
  | baudHigh =>
    rw [engineStep_baudHigh p hst] at h
    cases h
    simpa [State.unitOk, State.activating, UnitRegs.swrst] using hs
  | release =>
    rw [engineStep_release p hst] at h
    cases h
    simp [State.unitOk, State.activating, UnitRegs.swrst] at hs ⊢
    obtain ⟨⟨-, hmodes⟩, hpins⟩ := hs
    exact ⟨.inr hmodes, hmodes, hpins⟩

/-! ## The engine's step -/

/-- What the engine makes of an access to one unit puts no other unit amid ACTIVATE. -/
theorem State.advance_activating_other {s : State} {u : UnitId} (p : Params) (h : s.w.u ≠ u) :
    (s.advance p).activating u = none := by
  obtain ⟨-, -, -, -, hwu⟩ := State.advance_frame s p
  exact State.activating_other (by rw [hwu]; exact h)

/-- An access to another unit leaves a unit's registers, its `ACTIVE` bit and its agreement (R16). -/
theorem State.accessed_advance_other {s : State} {i : Instr} {a : Access} (x : Byte) (p : Params) {u : UnitId}
    (ha : a.unit = s.w.u) (hu : u ≠ a.unit) (hs : s.unitOk u = true) :
    ((s.accessed i a x).advance p).unitOk u = true ∧
      (s.regs u).SameSetup (((s.accessed i a x).advance p).regs u) := by
  obtain ⟨-, hunits, hactive, -, -⟩ := State.advance_frame (s.accessed i a x) p
  have hw : s.w.u ≠ u := fun h => hu (h.symm.trans ha.symm)
  have hregs : ((s.accessed i a x).advance p).regs u = s.regs u := by
    rw [State.regs, hunits, ← State.regs, State.accessed_regs_other s i a x hu]
  constructor
  · rw [State.unitOk_congr (s := s) _ _ (congrArg _ hregs) (congrArg _ hregs) (congrArg _ hregs)]
    · exact hs
    · rw [State.activating_other hw]
      exact State.advance_activating_other p hw
    · rw [hactive, State.accessed_active_other s i a x hu]
  · rw [hregs]
    exact .refl _

/-- An access of EXECUTE keeps the agreement of its unit and leaves the set-up. -/
theorem State.accessed_advance_inExecute {s : State} {i : Instr} {a : Access} (x : Byte) (p : Params)
    (hi : s.issue = some i) (ha : i.access = some a) (he : s.st.inExecute = true) (hs : s.unitOk a.unit = true) :
    ((s.accessed i a x).advance p).unitOk a.unit = true ∧
      (s.regs a.unit).SameSetup (((s.accessed i a x).advance p).regs a.unit) := by
  obtain ⟨-, hunits, hactive, -, -⟩ := State.advance_frame (s.accessed i a x) p
  have hcalm := (EngineState.settled_of_inExecute he).2
  have hcalm' := (EngineState.settled_of_inExecute (State.advance_inExecute (s := s.accessed i a x) p he)).2
  rw [State.unitOk_iff_agrees (State.activating_of_calm _ hcalm)] at hs
  rw [State.unitOk_iff_agrees (State.activating_of_calm _ hcalm'), State.regs, hunits, hactive]
  exact State.accessed_agrees x hi ha he hs

/-- A step that is no access keeps the agreement of both units and leaves their set-up. -/
theorem InternalMove.unitOk {s t : State} (h : InternalMove s t) {u : UnitId} (hcalm : ∀ k, s.st ≠ .act k)
    (hs : s.unitOk u = true) : t.unitOk u = true ∧ (s.regs u).SameSetup (t.regs u) := by
  obtain ⟨hunits, hactive⟩ := h.frame
  have hcalm' : ∀ k, t.st = .act k → k = .hold := by
    cases h with
    | idle => exact fun k hk => absurd hk (hcalm k)
    | raise c => exact nofun
    | load w st x hne hst => exact hst.2
    | store a b w st hne hst => exact hst.2
  rw [State.unitOk_iff_agrees (.inl (State.activating_none u hcalm))] at hs
  rw [State.unitOk_iff_agrees (State.activating_of_calm u hcalm'), hactive, State.regs, hunits]
  exact ⟨hs, .refl _⟩

/-- Amid ACTIVATE's accesses the engine's next step is one. -/
theorem State.issue_none_ne_act {s : State} (h : s.issue = none) (k : ActStep) : s.st ≠ .act k := by
  intro hk
  simp [State.issue, hk] at h

theorem engineStep_unitOk {p : Params} {s t : State} {u : UnitId} (h : engineStep p s = .next t)
    (hres : (s.regs u).reservedZero = true) (hs : s.unitOk u = true) :
    t.unitOk u = true ∧ (s.activating u = none → (s.regs u).SameSetup (t.regs u)) := by
  rcases engineStep_cases h with ⟨i, a, x, hi, ha, hau, ht⟩ | ⟨hi, ht⟩
  · by_cases hu : u = a.unit
    · rcases State.issue_place hi with he | ⟨k, hk⟩
      · subst hu
        have hkeep := State.accessed_advance_inExecute x p hi ha he hs
        exact ht ▸ ⟨hkeep.1, fun _ => hkeep.2⟩
      · rw [hu, hau] at hs hres ⊢
        exact ⟨engineStep_act_unitOk h hk hres hs, fun hn => by rw [State.activating_self hk] at hn; cases hn⟩
    · have hkeep := State.accessed_advance_other (i := i) x p hau hu hs
      exact ht ▸ ⟨hkeep.1, fun _ => hkeep.2⟩
  · have hm : InternalMove s t := ht ▸ State.internal_move hi
    have hkeep := hm.unitOk (State.issue_none_ne_act hi) hs
    exact ⟨hkeep.1, fun _ => hkeep.2⟩

/-! ## The other agents -/

/-- A bus agent's turn keeps the agreement of both units and leaves their set-up (R166). -/
theorem State.busEvent_unitOk {s : State} {u v : UnitId} {e : BusEvent} (hs : s.unitOk u = true) :
    (s.busEvent v e).unitOk u = true ∧ (s.regs u).SameSetup ((s.busEvent v e).regs u) := by
  obtain ⟨hset, hrel⟩ : (s.regs u).SameSetup ((s.busEvent v e).regs u) ∧
      ((s.busEvent v e).regs u).swrst = (s.regs u).swrst := by
    rw [State.busEvent_eq]
    by_cases hu : u = v
    · subst hu
      rw [State.setRegs_regs]
      split
      · obtain ⟨hctl0, hbrl, hbrh, -, -, hpsel, hswrst, -, hssel⟩ := e.effect_frame (s.regs u)
        exact ⟨⟨hctl0, hssel, hbrl, hbrh, hpsel⟩, hswrst⟩
      · exact ⟨.refl _, rfl⟩
    · rw [State.setRegs_regs_other _ _ _ hu]
      exact ⟨.refl _, rfl⟩
  refine ⟨?_, hset⟩
  have hk : (s.busEvent v e).activating u = s.activating u ∧ (s.busEvent v e).active = s.active := by
    rw [State.busEvent_eq]
    exact ⟨rfl, rfl⟩
  rw [State.unitOk_congr hk.1 (by rw [hk.2]) hrel hset.ctl0 hset.psel]
  exact hs

/-- While `BUSY` is 0 no unit is amid ACTIVATE. -/
theorem State.activating_of_not_busy {s : State} (u : UnitId) (hok : s.busyOk = true) (hb : s.busy = false) :
    s.activating u = none := by
  have hst : s.st.st = .S_IDLE := by
    by_contra hne
    have := (State.busyOk_iff s).1 hok |>.2 hne
    rw [hb] at this
    cases this
  refine State.activating_none u fun k hk => ?_
  rw [hk] at hst
  cases hst

/-- The acceptance of a command keeps the agreement of both units. -/
theorem State.accepted_unitOk {s : State} {u : UnitId} {first : EngineState} (rest : List Turn)
    (hf : CommandStart first) (hn : s.activating u = none) (hs : s.unitOk u = true) :
    ({ s with turns := rest, busy := true, st := first } : State).unitOk u = true := by
  rw [State.unitOk_iff_agrees (.inl hn)] at hs
  rw [State.unitOk_iff_agrees (State.activating_of_calm u hf.settled.2)]
  exact hs

theorem State.reset_unitOk (u : UnitId) : State.reset.unitOk u = true := by cases u <;> decide

/-- Settles O28, by whose move the step was: the engine's accesses go through the agreements of ACTIVATE's places or,
outside ACTIVATE, leave the set-up; a bus event, an acceptance and a host's write touch neither. -/
theorem stepKeepsActiveWithRelease : Obligations.StepKeepsActiveWithRelease := by
  intro s t u hbusy hres hs h
  suffices hkeep : t.unitOk u = true ∧
      (s.activating u = none → s.turns.head? ≠ some .powerOn → (s.regs u).SameSetup (t.regs u)) from
    ⟨hkeep.1, fun hn hp => have hset := hkeep.2 hn hp; ⟨hset.ctl0, hset.ssel, hset.brl, hset.brh, hset.psel⟩⟩
  cases stepWith_agentMove h with
  | engine rest he =>
    have hkeep := engineStep_unitOk he ((State.reservedZero_iff s).1 hres u) hs
    exact ⟨hkeep.1, fun hn _ => hkeep.2 hn⟩
  | bus rest v e he =>
    have hkeep := State.busEvent_unitOk (s := { s with turns := rest }) (v := v) (e := e) hs
    exact he ▸ ⟨hkeep.1, fun _ _ => hkeep.2⟩
  | submit rest first hf hb he =>
    rw [he]
    exact ⟨State.accepted_unitOk rest hf (State.activating_of_not_busy u hbusy hb) hs, fun _ _ => .refl _⟩
  | hostWrite rest a b he =>
    rw [he]
    exact ⟨hs, fun _ _ => .refl _⟩
  | powerOn rest hd he =>
    rw [he]
    exact ⟨State.reset_unitOk u, fun _ hp => absurd hd hp⟩

end Sys2Proof.Machine
end

section
/-! PROOFS. The working registers agree with the place in EXECUTE: indices within lengths, the NACK count within
`MAX_NACK` (R11, R132, R140, R142, R144). -/

namespace Sys2Proof.Machine

/-! ## What `State.placeOk` asks, as propositions -/

/-- Nothing is received yet, and no STOP issued. -/
structure Working.Fresh (w : Working) : Prop where
  rxIndex : w.rxIndex = 0
  stopIssued : w.stopIssued = false

/-- A byte of the message is still to be sent. -/
structure Working.Sending (w : Working) : Prop where
  fresh : w.Fresh
  txIndex : w.txIndex < w.d.outLen

/-- A Receive's message is all sent. -/
structure Working.Sent (w : Working) : Prop where
  direction : isReceive w.d.direction = true
  txIndex : w.txIndex = w.d.outLen

/-- A byte of the response is still to come; the STOP is issued exactly for the last byte of one (R139). -/
structure Working.Pending (w : Working) : Prop where
  sent : w.Sent
  rxIndex : w.rxIndex < w.d.respLen
  stopIssued : w.stopIssued = (w.d.respLen == 1)

/-- All bytes are sent and received. -/
structure Working.Ending (w : Working) : Prop where
  txIndex : w.txIndex = w.d.outLen
  nackCount : w.nackCount < Config.maxNack
  rxIndex : w.rxIndex = if isReceive w.d.direction then w.d.respLen else 0

/-- What `State.placeOk` asks of the working registers and the addressed unit's `ACTIVE` bit at a place. -/
@[reducible] def PlaceHolds (w : Working) (active : Bool) : EngineState → Prop
  | .idle | .act _ => True
  | .entryLoad _ got => got.length < descriptorLoadLength
  | .entryRaise c => c = .notInitialized ∨ c = .unspecifiedError ∨ c = .interfaceNotActive
  | .startAddr => active = true ∧ w.Fresh ∧ w.txIndex = 0 ∧ w.nackCount = 0
  | .startTr | .startStt => active = true ∧ w.Fresh ∧ w.txIndex = 0 ∧ w.nackCount = 0 ∧ 0 < w.d.outLen
  | .txPoll | .txFetch | .txWrite | .txNack | .txRestart => active = true ∧ w.Sending ∧ w.nackCount < Config.maxNack
  | .txClear => active = true ∧ w.Fresh ∧ w.txIndex = w.d.outLen ∧ w.nackCount = 0
  | .txStop | .txDisable => active = true ∧ w.Sending ∧ w.nackCount = Config.maxNack
  | .txRaise => active = false ∧ w.Sending ∧ w.nackCount = Config.maxNack
  | .prepTr | .prepClear | .prepStt => active = true ∧ w.Sent ∧ w.Fresh ∧ w.nackCount = 0
  | .sttPoll | .sttStop => active = true ∧ w.Sent ∧ w.Fresh ∧ w.nackCount = 0 ∧ w.d.respLen = 1
  | .rxPoll | .rxRead | .rxStore | .rxNack | .rxRestart => active = true ∧ w.Pending ∧ w.nackCount < Config.maxNack
  | .rxStop | .rxDisable => active = true ∧ w.Pending ∧ w.nackCount = Config.maxNack
  | .rxRaise => active = false ∧ w.Pending ∧ w.nackCount = Config.maxNack
  | .stop => active = true ∧ w.Ending ∧ w.stopIssued = (isReceive w.d.direction && w.d.respLen == 1)
  | .stpPoll | .stpRaise => active = true ∧ w.Ending ∧ w.stopIssued = false
  | .actLoad _ got => got.length < configLoadLength
  | .actRaise c => c = .noError ∨ c = .notInitialized ∨ c = .unspecifiedError
  | .build _ c => c = .noError ∨ c = .badParameters

theorem Working.fresh_iff (w : Working) : w.Fresh ↔ w.rxIndex = 0 ∧ w.stopIssued = false :=
  ⟨fun h => ⟨h.rxIndex, h.stopIssued⟩, fun ⟨h, h'⟩ => ⟨h, h'⟩⟩

theorem Working.sending_iff (w : Working) : w.Sending ↔ w.Fresh ∧ w.txIndex < w.d.outLen :=
  ⟨fun h => ⟨h.fresh, h.txIndex⟩, fun ⟨h, h'⟩ => ⟨h, h'⟩⟩

theorem Working.sent_iff (w : Working) : w.Sent ↔ isReceive w.d.direction = true ∧ w.txIndex = w.d.outLen :=
  ⟨fun h => ⟨h.direction, h.txIndex⟩, fun ⟨h, h'⟩ => ⟨h, h'⟩⟩

theorem Working.pending_iff (w : Working) :
    w.Pending ↔ w.Sent ∧ w.rxIndex < w.d.respLen ∧ w.stopIssued = (w.d.respLen == 1) :=
  ⟨fun h => ⟨h.sent, h.rxIndex, h.stopIssued⟩, fun ⟨h, h', h''⟩ => ⟨h, h', h''⟩⟩

theorem Working.ending_iff (w : Working) : w.Ending ↔ w.txIndex = w.d.outLen ∧ w.nackCount < Config.maxNack ∧
    w.rxIndex = if isReceive w.d.direction then w.d.respLen else 0 :=
  ⟨fun h => ⟨h.txIndex, h.nackCount, h.rxIndex⟩, fun ⟨h, h', h''⟩ => ⟨h, h', h''⟩⟩

theorem State.placeOk_iff (s : State) : s.placeOk = true ↔ PlaceHolds s.w (s.active.get s.w.u) s.st := by
  unfold State.placeOk
  cases s.st <;>
    simp only [PlaceHolds, Working.fresh_iff, Working.sending_iff, Working.sent_iff, Working.pending_iff,
      Working.ending_iff, Bool.and_eq_true, Bool.or_eq_true, Bool.not_eq_true', beq_iff_eq, decide_eq_true_eq,
      and_assoc, or_assoc]

/-! ## Counting -/

/-- The count that reaches the limit from below is the limit (R135, R142). -/
theorem nackCount_at_limit {c : Byte} (h : c < Config.maxNack) (h' : Config.maxNack ≤ c + 1) :
    c + 1 = Config.maxNack := by
  unfold Config.maxNack at *
  bv_omega

/-- A count of 0 is below the limit. -/
theorem nackCount_zero_lt : (0 : Byte) < Config.maxNack := by decide

/-- An index below its length, advanced, is at most the length. -/
theorem index_succ_le {i n : Half} (h : i < n) : i + 1 ≤ n := by bv_omega

theorem index_succ_lt {i n : Half} (h : i < n) (h' : i + 1 ≠ n) : i + 1 < n := by bv_omega

/-! ## Where EXECUTE's phases lead -/

/-- After the message, or without one, EXECUTE goes to the receive phase or to its end (R131, R132). -/
theorem afterTransmit_holds {w : Working} (hf : w.Fresh) (ht : w.txIndex = w.d.outLen) (hn : w.nackCount = 0) :
    PlaceHolds w true (afterTransmit w) := by
  unfold afterTransmit
  split
  next hd => exact ⟨rfl, ⟨hd, ht⟩, hf, hn⟩
  next hd =>
    have hnot : isReceive w.d.direction = false := by simpa using hd
    refine ⟨rfl, ⟨ht, by rw [hn]; exact nackCount_zero_lt, ?_⟩, ?_⟩
    · rw [if_neg hd]
      exact hf.rxIndex
    · rw [hnot, Bool.false_and]
      exact hf.stopIssued

/-- The loop condition of S_RX, with the message sent and the index within the response's length (R140). -/
theorem rxLoop_holds {w : Working} (hs : w.Sent) (hi : w.rxIndex ≤ w.d.respLen)
    (hstop : w.stopIssued = (w.d.respLen == 1)) (hn : w.nackCount < Config.maxNack) :
    PlaceHolds w true (rxLoop w) := by
  unfold rxLoop
  split
  next hlt => exact ⟨rfl, ⟨hs, hlt, hstop⟩, hn⟩
  next hge =>
    refine ⟨rfl, ⟨hs.txIndex, hn, ?_⟩, ?_⟩
    · rw [if_pos hs.direction]
      exact BitVec.le_antisymm hi (BitVec.not_lt.1 hge)
    · rw [hs.direction, Bool.true_and]
      exact hstop

theorem State.afterAddr_holds {s : State} (h : PlaceHolds s.w true .startAddr) :
    PlaceHolds s.afterAddr.w true s.afterAddr.st := by
  obtain ⟨-, hf, ht, hn⟩ := h
  simp only [State.afterAddr, State.setSt_w, State.setSt_st]
  split
  next hlen => exact ⟨rfl, hf, ht, hn, hlen⟩
  next hlen =>
    have hzero : s.w.d.outLen = 0 := BitVec.le_zero_iff.1 (BitVec.not_lt.1 hlen)
    exact afterTransmit_holds hf (ht.trans hzero.symm) hn

theorem State.afterWrite_holds {s : State} (h : PlaceHolds s.w true .txWrite) :
    PlaceHolds s.afterWrite.w true s.afterWrite.st := by
  obtain ⟨-, ⟨hf, hlt⟩, -⟩ := h
  have hf' : s.afterWrite.w.Fresh := ⟨hf.rxIndex, hf.stopIssued⟩
  by_cases hlast : s.w.txIndex + 1 = s.w.d.outLen
  · simp only [State.afterWrite, if_pos hlast]
    exact ⟨rfl, hf', hlast, rfl⟩
  · simp only [State.afterWrite, if_neg hlast]
    exact ⟨rfl, ⟨hf', index_succ_lt hlt hlast⟩, nackCount_zero_lt⟩

/-- A rewound or kept index is below the message's length as before (R136). -/
theorem State.afterTxNack_sending {s : State} (p : Params) (h : s.w.Sending) : (s.afterTxNack p).w.Sending := by
  unfold State.afterTxNack
  split
  · exact h
  · refine ⟨⟨h.fresh.rxIndex, h.fresh.stopIssued⟩, ?_⟩
    cases p.nackPolicy with
    | resendByte => exact h.txIndex
    | restartMessage =>
      have hlt := h.txIndex
      show (0 : Half) < s.w.d.outLen
      bv_omega

theorem State.afterTxNack_holds {s : State} (p : Params) (h : PlaceHolds s.w true .txNack) :
    PlaceHolds (s.afterTxNack p).w true (s.afterTxNack p).st := by
  obtain ⟨-, hs, hn⟩ := h
  have hs' := State.afterTxNack_sending p hs
  by_cases hret : s.ret = 0
  · simp only [State.afterTxNack, if_pos hret]
    exact ⟨rfl, hs, hn⟩
  · by_cases hmax : Config.maxNack ≤ s.w.nackCount + 1
    · simp only [State.afterTxNack, if_neg hret, if_pos hmax] at hs' ⊢
      exact ⟨rfl, hs', nackCount_at_limit hn hmax⟩
    · simp only [State.afterTxNack, if_neg hret, if_neg hmax] at hs' ⊢
      exact ⟨rfl, hs', BitVec.not_le.1 hmax⟩

theorem State.afterRxNack_holds {s : State} (h : PlaceHolds s.w true .rxNack) :
    PlaceHolds s.afterRxNack.w true s.afterRxNack.st := by
  obtain ⟨-, ⟨⟨hd, ht⟩, hlt, hstop⟩, hn⟩ := h
  by_cases hret : s.ret = 0
  · simp only [State.afterRxNack, if_pos hret]
    exact ⟨rfl, ⟨⟨hd, ht⟩, hlt, hstop⟩, hn⟩
  · by_cases hmax : Config.maxNack ≤ s.w.nackCount + 1
    · simp only [State.afterRxNack, if_neg hret, if_pos hmax]
      exact ⟨rfl, ⟨⟨hd, ht⟩, hlt, hstop⟩, nackCount_at_limit hn hmax⟩
    · simp only [State.afterRxNack, if_neg hret, if_neg hmax]
      exact ⟨rfl, ⟨⟨hd, ht⟩, hlt, hstop⟩, BitVec.not_le.1 hmax⟩

/-- After the receive phase's START the engine waits to stop a single-byte response, or enters the loop (R138). -/
theorem afterPrepStart_holds {w : Working} (h : PlaceHolds w true .prepStt) :
    PlaceHolds w true (if w.d.respLen = 1 then .sttPoll else rxLoop w) := by
  obtain ⟨-, hs, hf, hn⟩ := h
  split
  next hone => exact ⟨rfl, hs, hf, hn, hone⟩
  next hmany =>
    refine rxLoop_holds hs ?_ ?_ ?_
    · rw [hf.rxIndex]
      exact Nat.zero_le _
    · rw [hf.stopIssued, beq_eq_false_iff_ne.2 hmany]
    · rw [hn]
      exact nackCount_zero_lt

/-- A single-byte response's STOP is issued before its byte (R139). -/
theorem State.afterEarlyStop_holds {s : State} (h : PlaceHolds s.w true .sttStop) :
    PlaceHolds s.afterEarlyStop.w true s.afterEarlyStop.st := by
  obtain ⟨-, ⟨hd, ht⟩, hf, hn, hone⟩ := h
  refine rxLoop_holds (w := s.afterEarlyStop.w) ⟨hd, ht⟩ ?_ ?_ ?_
  · show s.w.rxIndex ≤ s.w.d.respLen
    rw [hf.rxIndex]
    exact Nat.zero_le _
  · show true = (s.w.d.respLen == 1)
    rw [hone]
    rfl
  · show s.w.nackCount < Config.maxNack
    rw [hn]
    exact nackCount_zero_lt

/-! ## The engine's accesses -/

/-- What the engine makes of its access holds at the place it leads to; the abort's DisableUnit has cleared `ACTIVE`. -/
theorem State.accessed_advance_holds {s : State} {i : Instr} (a : Access) (x : Byte) (p : Params) {active : Bool}
    (hi : s.issue = some i) (h : PlaceHolds s.w active s.st) :
    PlaceHolds ((s.accessed i a x).advance p).w (activeAfter i active) ((s.accessed i a x).advance p).st := by
  unfold State.issue at hi
  unfold State.advance
  cases hst : s.st <;>
    simp only [hst, reduceCtorEq, Option.some.injEq, State.accessed_st, State.accessed_w, State.setSt_w,
      State.setSt_st] at hi h ⊢
  case stop =>
    obtain ⟨hactive, hend, -⟩ := h
    split at hi
    · cases hi
    next hstop =>
      cases hi
      exact ⟨hactive, hend, by simpa using hstop⟩
  all_goals subst hi
  case startAddr =>
    obtain ⟨rfl, h⟩ := h
    exact State.afterAddr_holds (s := s.accessed _ a x) ⟨rfl, h⟩
  case startTr => exact h
  case startStt =>
    obtain ⟨ha, hf, ht, hn, hlen⟩ := h
    exact ⟨ha, ⟨hf, by rw [ht]; exact hlen⟩, by rw [hn]; exact nackCount_zero_lt⟩
  case txPoll | sttPoll | stpPoll => split <;> exact h
  case rxPoll =>
    split
    · split <;> exact h
    · exact h
  case txWrite =>
    obtain ⟨rfl, h⟩ := h
    exact State.afterWrite_holds (s := s.accessed _ a x) ⟨rfl, h⟩
  case txClear =>
    obtain ⟨rfl, hf, ht, hn⟩ := h
    exact afterTransmit_holds hf ht hn
  case txNack =>
    obtain ⟨rfl, h⟩ := h
    exact State.afterTxNack_holds (s := s.accessed _ a x) p ⟨rfl, h⟩
  case txDisable | rxDisable => exact ⟨rfl, h.2⟩
  case prepStt =>
    obtain ⟨rfl, h⟩ := h
    exact afterPrepStart_holds ⟨rfl, h⟩
  case sttStop =>
    obtain ⟨rfl, h⟩ := h
    exact State.afterEarlyStop_holds (s := s.accessed _ a x) ⟨rfl, h⟩
  case rxNack =>
    obtain ⟨rfl, h⟩ := h
    exact State.afterRxNack_holds (s := s.accessed _ a x) ⟨rfl, h⟩
  case act k =>
    cases k
    case release => exact .inl rfl
    all_goals trivial
  case txRestart | txStop | prepTr | prepClear | rxRead | rxRestart | rxStop => exact h

/-! ## The engine's other steps -/

/-- ACTIVATE's checks end at its first access or at a `raise` of a code of its own (R82). -/
theorem State.activateChecks_placeOk (s : State) (c : ConfigRec) : (s.activateChecks c).placeOk = true := by
  rw [State.placeOk_iff]
  unfold State.activateChecks
  dsimp only
  split
  · exact .inr (.inl rfl)
  · split
    · exact .inr (.inr rfl)
    · trivial

/-- EXECUTE's checks end at S_START with an active unit and all counters 0, or at a `raise` of a code of its own
(R84). -/
theorem State.executeChecks_placeOk (s : State) (d : Descriptor) : (s.executeChecks d).placeOk = true := by
  rw [State.placeOk_iff]
  unfold State.executeChecks
  dsimp only
  split
  · exact .inl rfl
  · split
    · exact .inr (.inl rfl)
    next u hu =>
      cases hactive : s.active.get u with
      | false => exact .inr (.inr rfl)
      | true => exact ⟨hactive, ⟨rfl, rfl⟩, rfl, rfl⟩

/-- A record is not read past its end (R44). -/
theorem State.loadConfig_placeOk (s : State) (ptr : Half) (got : List Byte) :
    (s.loadConfig ptr got).placeOk = true := by
  unfold State.loadConfig
  dsimp only
  split
  next hlen => exact (State.placeOk_iff _).2 hlen
  · exact State.activateChecks_placeOk s _

/-- A record is not read past its end (R45). -/
theorem State.loadDescriptor_placeOk (s : State) (ptr : Half) (got : List Byte) :
    (s.loadDescriptor ptr got).placeOk = true := by
  unfold State.loadDescriptor
  dsimp only
  split
  next hlen => exact (State.placeOk_iff _).2 hlen
  · exact State.executeChecks_placeOk s _

/-- A stored byte advances the index within the response's length (R141). -/
theorem State.storeByte_placeOk {s : State} (h : PlaceHolds s.w (s.active.get s.w.u) .rxStore) :
    s.storeByte.placeOk = true := by
  obtain ⟨hactive, ⟨⟨hd, ht⟩, hlt, hstop⟩, hn⟩ := h
  rw [State.placeOk_iff]
  have hw := rxLoop_holds (w := s.storeByte.w) ⟨hd, ht⟩ (index_succ_le hlt) hstop hn
  rwa [← hactive] at hw

theorem State.internal_placeOk {s : State} (h : s.placeOk = true) : s.internal.placeOk = true := by
  have hplace := (State.placeOk_iff s).1 h
  unfold State.internal
  cases hst : s.st <;> simp only [hst] at hplace ⊢
  case entryLoad ptr got => exact State.loadDescriptor_placeOk s ptr got
  case actLoad ptr got => exact State.loadConfig_placeOk s ptr got
  case txFetch => exact (State.placeOk_iff _).2 hplace
  case rxStore => exact State.storeByte_placeOk hplace
  case build ws c =>
    cases ws with
    | nil => rfl
    | cons x rest => exact (State.placeOk_iff _).2 hplace
  case entryRaise | txRaise | rxRaise | stop | stpRaise | actRaise => rfl
  all_goals exact h

/-! ## The step -/

theorem engineStep_placeOk {p : Params} {s t : State} (h : engineStep p s = .next t) (hs : s.placeOk = true) :
    t.placeOk = true := by
  rcases engineStep_cases h with ⟨i, a, x, hi, -, hu, rfl⟩ | ⟨-, rfl⟩
  · obtain ⟨-, -, hactive, -, hwu⟩ := State.advance_frame (s.accessed i a x) p
    have hbit : ((s.accessed i a x).advance p).active.get ((s.accessed i a x).advance p).w.u =
        activeAfter i (s.active.get s.w.u) := by
      rw [hactive, hwu, State.accessed_w, ← hu, State.accessed_active]
    rw [State.placeOk_iff, hbit]
    exact State.accessed_advance_holds a x p hi ((State.placeOk_iff s).1 hs)
  · exact State.internal_placeOk hs

theorem CommandStart.placeHolds {e : EngineState} (h : CommandStart e) (w : Working) (active : Bool) :
    PlaceHolds w active e := by
  cases h with
  | build hc => exact hc
  | activateNull => exact .inr (.inl rfl)
  | activateLoad => exact Nat.zero_lt_succ _
  | executeNull => exact .inl rfl
  | executeLoad => exact Nat.zero_lt_succ _

theorem stepWith_placeOk {p : Params} {s t : State} (h : stepWith p s = .next t) (hs : s.placeOk = true) :
    t.placeOk = true := by
  cases stepWith_agentMove h with
  | engine rest he => exact engineStep_placeOk he hs
  | bus rest u e he =>
    rw [he, State.busEvent_eq]
    exact hs
  | submit rest first hf hb he => rw [he]; exact (State.placeOk_iff _).2 (hf.placeHolds _ _)
  | hostWrite rest a b he => rw [he]; exact hs
  | powerOn rest hd he => rw [he]; rfl

/-! ## The bounds -/

/-- The bounds of EXECUTE: indices within lengths, the NACK count within `MAX_NACK`, nothing received outside a Receive
(R132, R140). -/
structure Working.Bounded (w : Working) : Prop where
  txIndex : w.txIndex.toNat ≤ w.d.outLen.toNat
  nackCount : w.nackCount.toNat ≤ 10
  rxReceive : w.d.direction = 1 → w.rxIndex.toNat ≤ w.d.respLen.toNat
  rxOther : w.d.direction ≠ 1 → w.rxIndex = 0

theorem isReceive_iff (d : Byte) : isReceive d = true ↔ d = 1 := by simp only [isReceive, beq_iff_eq]

theorem nackCount_le_of_lt {c : Byte} (h : c < Config.maxNack) : c.toNat ≤ 10 := Nat.le_of_lt h

theorem Working.Fresh.bounded {w : Working} (h : w.Fresh) (ht : w.txIndex.toNat ≤ w.d.outLen.toNat)
    (hn : w.nackCount.toNat ≤ 10) : w.Bounded :=
  ⟨ht, hn, fun _ => by rw [h.rxIndex]; exact Nat.zero_le _, fun _ => h.rxIndex⟩

theorem Working.Pending.bounded {w : Working} (h : w.Pending) (hn : w.nackCount.toNat ≤ 10) : w.Bounded :=
  ⟨Nat.le_of_eq (congrArg _ h.sent.txIndex), hn, fun _ => Nat.le_of_lt h.rxIndex,
    fun hd => absurd ((isReceive_iff _).1 h.sent.direction) hd⟩

theorem Working.Ending.bounded {w : Working} (h : w.Ending) : w.Bounded := by
  refine ⟨Nat.le_of_eq (congrArg _ h.txIndex), nackCount_le_of_lt h.nackCount, fun hd => ?_, fun hd => ?_⟩
  · rw [h.rxIndex, if_pos ((isReceive_iff _).2 hd)]
  · rw [h.rxIndex, if_neg (mt (isReceive_iff _).1 hd)]

/-- Every place of EXECUTE is within the bounds, the abort's too. -/
theorem PlaceHolds.bounded {w : Working} {active : Bool} {e : EngineState} (h : PlaceHolds w active e)
    (he : e.inExecute = true) : w.Bounded := by
  cases e
  case idle | entryLoad | entryRaise | actLoad | act | actRaise | build => cases he
  case startAddr =>
    obtain ⟨-, hf, ht, hn⟩ := h
    exact hf.bounded (by rw [ht]; exact Nat.zero_le _) (by rw [hn]; exact Nat.zero_le _)
  case startTr | startStt =>
    obtain ⟨-, hf, ht, hn, -⟩ := h
    exact hf.bounded (by rw [ht]; exact Nat.zero_le _) (by rw [hn]; exact Nat.zero_le _)
  case txPoll | txFetch | txWrite | txNack | txRestart =>
    obtain ⟨-, ⟨hf, hlt⟩, hn⟩ := h
    exact hf.bounded (Nat.le_of_lt hlt) (nackCount_le_of_lt hn)
  case txClear =>
    obtain ⟨-, hf, ht, hn⟩ := h
    exact hf.bounded (Nat.le_of_eq (congrArg _ ht)) (by rw [hn]; exact Nat.zero_le _)
  case txStop | txDisable | txRaise =>
    obtain ⟨-, ⟨hf, hlt⟩, hn⟩ := h
    exact hf.bounded (Nat.le_of_lt hlt) (Nat.le_of_eq (congrArg _ hn))
  case prepTr | prepClear | prepStt =>
    obtain ⟨-, hs, hf, hn⟩ := h
    exact hf.bounded (Nat.le_of_eq (congrArg _ hs.txIndex)) (by rw [hn]; exact Nat.zero_le _)
  case sttPoll | sttStop =>
    obtain ⟨-, hs, hf, hn, -⟩ := h
    exact hf.bounded (Nat.le_of_eq (congrArg _ hs.txIndex)) (by rw [hn]; exact Nat.zero_le _)
  case rxPoll | rxRead | rxStore | rxNack | rxRestart =>
    obtain ⟨-, hp, hn⟩ := h
    exact hp.bounded (nackCount_le_of_lt hn)
  case rxStop | rxDisable | rxRaise =>
    obtain ⟨-, hp, hn⟩ := h
    exact hp.bounded (Nat.le_of_eq (congrArg _ hn))
  case stop | stpPoll | stpRaise =>
    obtain ⟨-, he, -⟩ := h
    exact he.bounded

/-- Settles O29, by whose move the step was and, for the engine's, by its place; the bounds follow place by place. -/
theorem stepKeepsIndicesWithinLengths : Obligations.StepKeepsIndicesWithinLengths := by
  refine ⟨fun s t hs h => stepWith_placeOk h hs, fun s hs he => ?_⟩
  obtain ⟨htx, hn, hrx, hother⟩ := PlaceHolds.bounded ((State.placeOk_iff s).1 hs) he
  exact ⟨htx, hn, hrx, hother⟩

end Sys2Proof.Machine
end

section
/-! PROOFS. The unit a command does not address (R53, R197): a step of the engine commutes with replacing that unit's
registers and `ACTIVE` bit, piece by piece of the step, and so neither changes them nor depends on them. -/

namespace Sys2Proof

theorem PerUnit.set_comm {α : Type} (p : PerUnit α) {u v : UnitId} (a b : α) (h : v ≠ u) :
    (p.set v b).set u a = (p.set u a).set v b := by
  cases u <;> cases v
  case primary.primary | secondary.secondary => exact absurd rfl h
  all_goals rfl

end Sys2Proof

namespace Sys2Proof.Machine

/-! ## Replacing one unit -/

/-- The state with the registers and the `ACTIVE` bit of one unit replaced. -/
def State.withUnit (s : State) (v : UnitId) (r : UnitRegs) (b : Bool) : State := (s.setRegs v r).setActive v b

section
variable (s : State) (v : UnitId) (r : UnitRegs) (b : Bool)
@[simp] theorem State.withUnit_st : (s.withUnit v r b).st = s.st := rfl
@[simp] theorem State.withUnit_loadNext (ptr : Half) (got : List Byte) :
    (s.withUnit v r b).loadNext ptr got = s.loadNext ptr got := rfl
@[simp] theorem State.withUnit_issue : (s.withUnit v r b).issue = s.issue := rfl
@[simp] theorem State.withUnit_regs : (s.withUnit v r b).regs v = r := by simp [State.withUnit]
@[simp] theorem State.withUnit_active : (s.withUnit v r b).active.get v = b := by simp [State.withUnit]
theorem State.withUnit_regs_other {u : UnitId} (h : v ≠ u) : (s.withUnit v r b).regs u = s.regs u := by
  simp [State.withUnit, State.setRegs_regs_other _ _ _ h.symm]
theorem State.withUnit_self : s.withUnit v (s.regs v) (s.active.get v) = s := by
  simp [State.withUnit, State.setRegs_self, State.setActive]
end

section
variable (s : State) {u v : UnitId} (r : UnitRegs) (b : Bool) (h : v ≠ u)
include h

theorem State.setRegs_withUnit (r' : UnitRegs) :
    (s.withUnit v r b).setRegs u r' = (s.setRegs u r').withUnit v r b := by
  simp [State.withUnit, State.setRegs, State.setActive, PerUnit.set_comm _ _ _ h]

theorem State.setActive_withUnit (b' : Bool) :
    (s.withUnit v r b).setActive u b' = (s.setActive u b').withUnit v r b := by
  simp [State.withUnit, State.setRegs, State.setActive, PerUnit.set_comm _ _ _ h]

theorem State.poke_withUnit (k : AccessKind) (reg : UnitReg) (d : Byte) :
    (s.withUnit v r b).poke k u reg d = (s.poke k u reg d).withUnit v r b := by
  rw [State.poke, State.withUnit_regs_other _ _ _ _ h, State.setRegs_withUnit s r b h]
  rfl

theorem State.peek_withUnit (reg : UnitReg) (d : Byte) :
    (s.withUnit v r b).peek u reg d = (s.peek u reg d).withUnit v r b := by
  rw [State.peek, State.withUnit_regs_other _ _ _ _ h, State.setRegs_withUnit s r b h]
  rfl

end

/-! ## The pieces of a step -/

/-- A primitive's answer does not depend on the unit it does not access, and leaves it (R100). -/
theorem exec_withUnit {i : Instr} {a : Access} (ha : i.access = some a) {s t : State} {v : UnitId} (r : UnitRegs)
    (b : Bool) (hv : v ≠ a.unit) (h : exec i s = .next t) : exec i (s.withUnit v r b) = .next (t.withUnit v r b) := by
  cases i <;> simp only [Instr.access, Option.some.injEq, reduceCtorEq] at ha <;> subst ha <;> cases h
  case disableUnit | enableUnit =>
    refine congrArg Host.Outcome.next ?_
    rw [State.poke_withUnit s r b hv, State.setActive_withUnit _ r b hv]
  case readTxRdy | readRxRdy | readNack | readSttPending | readStpPending | readRx =>
    exact congrArg Host.Outcome.next (State.peek_withUnit s r b hv _ _)
  all_goals exact congrArg Host.Outcome.next (State.poke_withUnit s r b hv _ _ _)

/-- What the engine makes of an access depends on no unit: it has only the value read and its own registers. -/
theorem State.advance_withUnit (s : State) (p : Params) (v : UnitId) (r : UnitRegs) (b : Bool) :
    (s.withUnit v r b).advance p = (s.advance p).withUnit v r b := by
  unfold State.advance
  cases hst : s.st <;> simp only [State.withUnit_st, hst]
  case txNack =>
    unfold State.afterTxNack
    rw [apply_ite (State.withUnit · v r b)]
    rfl
  case rxNack =>
    unfold State.afterRxNack
    rw [apply_ite (State.withUnit · v r b)]
    rfl
  all_goals rfl

/-- ACTIVATE's checks look at the Config alone (R82). -/
theorem State.activateChecks_withUnit (s : State) (c : ConfigRec) (v : UnitId) (r : UnitRegs) (b : Bool) :
    (s.withUnit v r b).activateChecks c = (s.activateChecks c).withUnit v r b := by
  unfold State.activateChecks
  dsimp only
  split
  · rfl
  · split <;> rfl

/-- A step that is no access depends on no unit, but for EXECUTE's entry checks, which read `ACTIVE` (R84). -/
theorem State.internal_withUnit {s : State} (h : s.st.st ≠ .S_ENTRY) (v : UnitId) (r : UnitRegs) (b : Bool) :
    (s.withUnit v r b).internal = s.internal.withUnit v r b := by
  unfold State.internal
  cases hst : s.st <;> simp only [State.withUnit_st, hst]
  case entryLoad | entryRaise => exact absurd (congrArg EngineState.st hst) h
  case actLoad ptr got =>
    simp only [State.loadConfig, State.withUnit_loadNext, State.activateChecks_withUnit]
    rw [apply_ite (State.withUnit · v r b)]
    rfl
  case build ws c => cases ws <;> rfl
  all_goals rfl

theorem engineStep_withUnit {p : Params} {s t : State} {v : UnitId} (r : UnitRegs) (b : Bool) (hv : v ≠ s.w.u)
    (hst : s.st.st ≠ .S_ENTRY) (h : engineStep p s = .next t) :
    engineStep p (s.withUnit v r b) = .next (t.withUnit v r b) := by
  unfold engineStep at h ⊢
  rw [State.withUnit_issue]
  cases hi : s.issue with
  | none =>
    simp only [hi, Host.Outcome.next.injEq] at h ⊢
    rw [← h, State.internal_withUnit hst]
  | some i =>
    obtain ⟨a, ha, hu⟩ := State.issue_access hi
    obtain ⟨x, hx⟩ := exec_accessed ha s
    have hx' := exec_withUnit ha r b (hu.symm ▸ hv) hx
    simp only [hi, hx, hx', Host.Outcome.next.injEq] at h ⊢
    rw [← h, State.advance_withUnit]

/-- Settles O50: replacing the other unit before the step or after it gives the same state. That the step leaves that
unit is the case in which it is replaced by itself. -/
theorem otherUnitNeitherChangesNorMatters : Obligations.OtherUnitNeitherChangesNorMatters := by
  intro prm s t v r b hv hst hturns h
  have hmatters : ∀ r b, stepWith prm (s.withUnit v r b) = .next (t.withUnit v r b) := by
    intro r b
    rw [stepWith_engine hturns] at h
    rw [stepWith_engine (s := s.withUnit v r b) hturns]
    exact engineStep_withUnit r b hv hst h
  have hself : t = t.withUnit v (s.regs v) (s.active.get v) := by
    have hs := hmatters (s.regs v) (s.active.get v)
    rw [State.withUnit_self, h] at hs
    exact Host.Outcome.next.inj hs
  refine ⟨?_, ?_, hmatters r b⟩
  · rw [hself, State.withUnit_regs]
  · rw [hself, State.withUnit_active]

end Sys2Proof.Machine
end

section
/-! PROOFS. What an access makes of each register (R50): its value in its own register, and the side effects of R51 on
`IFG`. -/

namespace Sys2Proof.Machine

/-- A side effect is on `IFG`, by the three rules of R51. -/
theorem UnitRegs.sideEffect_ifg (r : UnitRegs) (k : AccessKind) (reg : UnitReg) (d : Byte) :
    (r.sideEffect k reg d).ifg =
      if k = .WR ∧ reg = .TXBUF then r.ifg &&& ~~~txrdyMask
      else if k = .RD ∧ reg = .RXBUF then r.ifg &&& ~~~rxrdyMask
      else if (k = .WR ∨ k = .SET) ∧ reg = .CTL1 ∧ d.getLsbD 1 = true then r.ifg &&& ~~~nackMask
      else r.ifg := by
  cases k <;> cases reg
  case WR.CTL1 | SET.CTL1 =>
    simp only [UnitRegs.sideEffect]
    cases d.getLsbD 1 <;> rfl
  all_goals rfl

/-- A side effect leaves every other register. -/
theorem UnitRegs.sideEffect_get_other (r : UnitRegs) (k : AccessKind) (reg : UnitReg) (d : Byte) {other : UnitReg}
    (h : other ≠ .IFG) : (r.sideEffect k reg d).get other = r.get other := by
  obtain ⟨f, hf⟩ := r.sideEffect_eq k reg d
  rw [hf]
  cases other
  case IFG => exact absurd rfl h
  all_goals rfl

/-- An access of `IFG` has no side effect (R51). -/
theorem UnitRegs.sideEffect_of_ifg (r : UnitRegs) (k : AccessKind) (d : Byte) : r.sideEffect k .IFG d = r := by
  cases k <;> rfl

theorem UnitRegs.access_get_self (r : UnitRegs) (k : AccessKind) (reg : UnitReg) (d : Byte) :
    (r.access k reg d).get reg = accessValue k reg (r.get reg) d := by
  unfold UnitRegs.access
  by_cases h : reg = .IFG
  · rw [h, UnitRegs.sideEffect_of_ifg, UnitRegs.get_put, if_pos rfl]
  · rw [UnitRegs.sideEffect_get_other _ _ _ _ h, UnitRegs.get_put, if_pos rfl]

theorem UnitRegs.access_get_other (r : UnitRegs) (k : AccessKind) {reg other : UnitReg} (d : Byte)
    (hne : other ≠ reg) (hifg : other ≠ .IFG) : (r.access k reg d).get other = r.get other := by
  rw [UnitRegs.access, UnitRegs.sideEffect_get_other _ _ _ _ hifg, UnitRegs.get_put, if_neg hne]

theorem UnitRegs.put_ifg (r : UnitRegs) {reg : UnitReg} (v : Byte) (h : reg ≠ .IFG) : (r.put reg v).ifg = r.ifg :=
  (UnitRegs.get_put r reg .IFG v).trans (if_neg h.symm)

theorem State.poke_regs (s : State) (k : AccessKind) (u : UnitId) (reg : UnitReg) (d : Byte) :
    (s.poke k u reg d).regs u = (s.regs u).access k reg d :=
  State.setRegs_regs ..

theorem State.peek_regs (s : State) (u : UnitId) (reg : UnitReg) (d : Byte) :
    (s.peek u reg d).regs u = (s.regs u).access .RD reg d :=
  State.setRegs_regs ..

/-- Settles O9: `access` is the access's value in its own register and then the side effect, which is on `IFG`. -/
theorem accessKindsFollowTheirFormulas : Obligations.AccessKindsFollowTheirFormulas := by
  intro r reg d
  refine ⟨fun s u => ?_, r.access_get_self .RD reg d, r.access_get_self .WR reg d, r.access_get_self .SET reg d,
    r.access_get_self .CLR reg d, fun k other hne hifg => r.access_get_other k d hne hifg, r.rd_ifg d, fun hreg k => ?_⟩
  · exact ⟨rfl, s.peek_regs u reg d, fun k => ⟨s.poke_regs k u reg d, rfl⟩,
      fun v hv => ⟨s.setRegs_regs_other u _ hv, fun k => s.setRegs_regs_other u _ hv⟩⟩
  · rw [UnitRegs.access, UnitRegs.sideEffect_ifg, UnitRegs.put_ifg _ _ hreg]
    rfl

end Sys2Proof.Machine
end

section
/-! PROOFS. Which steps write host memory (R48): what the engine writes next, and that no other step but the host's
changes a byte. -/

namespace Sys2Proof.Machine

/-- A write that changes a byte wrote it. -/
theorem State.memWrite_changed {s : State} {a x : Half} {b : Byte} (hwf : Memory.wf s.mem = true)
    (h : (s.memWrite a b).memRead x ≠ s.memRead x) : x = a ∧ (s.memWrite a b).memRead x = b := by
  by_cases hx : x = a
  · exact ⟨hx, hx ▸ State.memRead_memWrite_same x b hwf⟩
  · exact absurd (State.memRead_memWrite_other b hwf hx) h

/-- The byte of host memory that the engine's next step writes: a build command's next one, or the byte received (R81,
R83, R141). -/
inductive NextWrite (s : State) : Half → Byte → Prop
  | build {a : Half} {b : Byte} {rest : List (Half × Byte)} {c : ErrorCode} (h : s.st = .build ((a, b) :: rest) c) :
    NextWrite s a b
  | received (h : s.st = .rxStore) : NextWrite s (rxAddr s.w) s.ret

theorem State.internal_mem (s : State) :
    s.internal.mem = s.mem ∨ ∃ a b, NextWrite s a b ∧ s.internal.mem = (s.memWrite a b).mem := by
  unfold State.internal
  cases hst : s.st <;> dsimp only
  case rxStore => exact .inr ⟨_, _, .received hst, rfl⟩
  case build ws c =>
    cases ws with
    | nil => exact .inl rfl
    | cons x rest => exact .inr ⟨x.1, x.2, .build hst, rfl⟩
  case entryLoad ptr got =>
    obtain ⟨w, st, he, -⟩ := s.loadDescriptor_eq ptr got
    exact .inl (by rw [he])
  case actLoad ptr got =>
    obtain ⟨w, st, he, -⟩ := s.loadConfig_eq ptr got
    exact .inl (by rw [he])
  all_goals exact .inl rfl

theorem engineStep_mem {p : Params} {s t : State} (h : engineStep p s = .next t) :
    t.mem = s.mem ∨ ∃ a b, NextWrite s a b ∧ t.mem = (s.memWrite a b).mem := by
  rcases engineStep_cases h with ⟨i, a, x, -, -, -, rfl⟩ | ⟨-, rfl⟩
  · obtain ⟨hmem, -, -, -, -⟩ := State.advance_frame (s.accessed i a x) p
    exact .inl hmem
  · exact s.internal_mem

theorem NextWrite.of_turns {s : State} {rest : List Turn} {a : Half} {b : Byte}
    (h : NextWrite { s with turns := rest } a b) : NextWrite s a b := by
  cases h with
  | build h => exact .build h
  | received h => exact .received h

/-- While the host has no move, memory changes only by the engine's next write (R28, R48). -/
theorem stepWith_mem {p : Params} {s t : State} (hq : s.quiet = true) (h : stepWith p s = .next t) :
    t.mem = s.mem ∨ ∃ a b, NextWrite s a b ∧ t.mem = (s.memWrite a b).mem := by
  rcases stepWith_next h with ⟨-, he⟩ | ⟨rest, -, he⟩ | ⟨u, e, rest, -, rfl⟩ | ⟨bytes, rest, i, first, ht, -⟩ |
    ⟨a, b, rest, ht, -⟩ | ⟨rest, ht, -⟩
  · exact engineStep_mem he
  · rcases engineStep_mem he with hmem | ⟨a, b, hw, hmem⟩
    · exact .inl hmem
    · exact .inr ⟨a, b, hw.of_turns, hmem⟩
  · rw [State.busEvent_eq]
    exact .inl rfl
  all_goals simp [State.quiet, ht, Turn.quiet] at hq

/-- Settles O49: a changed byte is the one the engine writes next. -/
theorem engineWritesMemoryOnlyWhereItsRulesSay : Obligations.EngineWritesMemoryOnlyWhereItsRulesSay := by
  intro prm s t x hq hwf h hne
  rcases stepWith_mem hq h with hmem | ⟨a, b, hw, hmem⟩
  · exact absurd (congrArg (Memory.readAt · x.toNat) hmem) hne
  · have hread : t.memRead x = (s.memWrite a b).memRead x := congrArg (Memory.readAt · x.toNat) hmem
    rw [hread] at hne ⊢
    obtain ⟨rfl, hb⟩ := State.memWrite_changed hwf hne
    cases hw with
    | build hst => exact .inl ⟨_, _, _, hst, hb⟩
    | received hst => exact .inr ⟨hst, rfl, hb⟩

end Sys2Proof.Machine
end

section
/-! PROOFS. Encoding and decoding (R60 to R73): a frame decodes to a command exactly when it is that command's frame, a
word to a primitive exactly when it is the word of that primitive's access; and a step runs what was decoded. -/

namespace Sys2Proof

/-! ## The encoder, a command's frame and a primitive's access -/

theorem encode_of_access {i : Instr} {a : Access} (h : i.access = some a) : encode i = .access a.word := by
  simp only [encode, h]

/-- An instruction with a frame is no register access (R60). -/
theorem Instr.access_of_frame {i : Instr} {bytes : List Byte} (h : i.frame = some bytes) : i.access = none := by
  cases i
  case buildcfg | activate | buildtxn | execute => rfl
  all_goals cases h

theorem encode_of_frame {i : Instr} {bytes : List Byte} (h : i.frame = some bytes) : encode i = .frame bytes := by
  simp only [encode, Instr.access_of_frame h, h, Option.getD_some]

/-- Every instruction is a command with a frame or a primitive with an access (R60, R70). -/
theorem Instr.frame_or_access (i : Instr) : (∃ bytes, i.frame = some bytes) ∨ ∃ a, i.access = some a := by
  cases i
  case buildcfg | activate | buildtxn | execute => exact .inl ⟨_, rfl⟩
  all_goals exact .inr ⟨_, rfl⟩

/-- No operand of a command is an illegal encoding (R67). -/
theorem Instr.wellFormed_of_frame {i : Instr} {bytes : List Byte} (h : i.frame = some bytes) :
    i.wellFormed = true := by
  cases i
  case selectClock => cases h
  all_goals rfl

/-! ## Frames (R60 to R66) -/

/-- A command's frame decodes to it (R73). -/
theorem decodeFrame_of_frame {i : Instr} {bytes : List Byte} (h : i.frame = some bytes) :
    decodeFrame bytes = .ok i := by
  cases i
  case buildcfg | activate | buildtxn | execute =>
    cases h
    simp [decodeFrame]
  all_goals cases h

/-- A frame that decodes is the frame of its command (R73). -/
theorem frame_of_decodeFrame {bytes : List Byte} {i : Instr} (h : decodeFrame bytes = .ok i) :
    i.frame = some bytes := by
  cases bytes with
  | nil => cases h
  | cons opcode ops =>
    simp only [decodeFrame] at h
    split_ifs at h
    all_goals
      subst opcode
      split at h
      · cases h
        simp [Instr.frame]
      · cases h

/-! A format's length is the one thing asked of its operand bytes (R65, R67). -/

theorem decodeFrame_buildcfg_of_length {ops : List Byte} (h : ops.length = 6) :
    ∃ i, decodeFrame (0x01 :: ops) = .ok i :=
  let [_, _, _, _, _, _] := ops
  ⟨_, rfl⟩

theorem decodeFrame_activate_of_length {ops : List Byte} (h : ops.length = 2) :
    ∃ i, decodeFrame (0x02 :: ops) = .ok i :=
  let [_, _] := ops
  ⟨_, rfl⟩

theorem decodeFrame_buildtxn_of_length {ops : List Byte} (h : ops.length = 14) :
    ∃ i, decodeFrame (0x03 :: ops) = .ok i :=
  let [_, _, _, _, _, _, _, _, _, _, _, _, _, _] := ops
  ⟨_, rfl⟩

theorem decodeFrame_execute_of_length {ops : List Byte} (h : ops.length = 2) :
    ∃ i, decodeFrame (0x04 :: ops) = .ok i :=
  let [_, _] := ops
  ⟨_, rfl⟩

/-- A frame decodes exactly when its opcode has a format and its length is that format's (R65, R66). -/
theorem decodeFrame_ok_iff (bytes : List Byte) :
    (∃ i, decodeFrame bytes = .ok i) ↔
      (bytes.head? = some 0x01 ∧ bytes.length = 7) ∨ (bytes.head? = some 0x02 ∧ bytes.length = 3) ∨
      (bytes.head? = some 0x03 ∧ bytes.length = 15) ∨ (bytes.head? = some 0x04 ∧ bytes.length = 3) := by
  constructor
  · rintro ⟨i, hi⟩
    have hf := frame_of_decodeFrame hi
    cases i
    case buildcfg | activate | buildtxn | execute =>
      cases hf
      simp
    all_goals cases hf
  · simp only [List.head?_eq_some_iff]
    rintro (⟨⟨ops, rfl⟩, hl⟩ | ⟨⟨ops, rfl⟩, hl⟩ | ⟨⟨ops, rfl⟩, hl⟩ | ⟨⟨ops, rfl⟩, hl⟩)
    · exact decodeFrame_buildcfg_of_length (Nat.succ.inj hl)
    · exact decodeFrame_activate_of_length (Nat.succ.inj hl)
    · exact decodeFrame_buildtxn_of_length (Nat.succ.inj hl)
    · exact decodeFrame_execute_of_length (Nat.succ.inj hl)

/-! ## Access words (R70, R71) -/

/-- SelectClock's data byte, for a clock source of two bits: no other `SET CTL1` primitive's, and the source comes back
(R71). -/
theorem clockData_of_le {c : Byte} (h : c ≤ 3) :
    c <<< 6 ≠ 0x01 ∧ c <<< 6 ≠ 0x02 ∧ c <<< 6 ≠ 0x04 ∧ c <<< 6 ≠ 0x10 ∧ (c <<< 6) &&& 0x3F = 0 ∧
      (c <<< 6) >>> 6 = c := by
  revert c
  decide

/-- A data byte whose bits 5:0 are 0 is the one of a clock source of two bits (R71). -/
theorem clockSource_of_data {d : Byte} (h : d &&& 0x3F = 0) : (d >>> 6) <<< 6 = d ∧ d >>> 6 ≤ 3 := by
  revert d
  decide

/-- The access that a well-formed primitive is, is that primitive (R71). -/
theorem Access.primitive_of_access {i : Instr} {a : Access} (hwf : i.wellFormed = true) (h : i.access = some a) :
    a.primitive = some i := by
  cases i
  case buildcfg | activate | buildtxn | execute => cases h
  case selectClock u c =>
    cases h
    obtain ⟨h1, h2, h4, h10, hlow, hback⟩ := clockData_of_le (of_decide_eq_true hwf)
    simp only [Access.primitive, h1, h2, h4, h10, hlow, hback, if_false, if_true]
  all_goals
    cases h
    rfl

/-- An access that is a primitive is the access of that primitive alone (R50, R71). -/
theorem Instr.access_of_primitive {a : Access} {i : Instr} (h : a.primitive = some i) :
    i.access = some a ∧ i.wellFormed = true := by
  obtain ⟨k, u, r, d⟩ := a
  cases k <;> cases r <;> simp only [Access.primitive, reduceCtorEq] at h
  case SET.CTL1 =>
    split_ifs at h with h1 h2 h4 h10 hlow
    on_goal 5 =>
      cases h
      obtain ⟨hback, hle⟩ := clockSource_of_data hlow
      exact ⟨by rw [Instr.access, hback], decide_eq_true hle⟩
    all_goals
      subst d
      cases h
      exact ⟨rfl, rfl⟩
  case WR.BRL | WR.BRH | WR.SA | WR.TXBUF =>
    cases h
    exact ⟨rfl, rfl⟩
  all_goals
    split_ifs at h
    all_goals
      subst d
      cases h
      exact ⟨rfl, rfl⟩

theorem decodeAccess_word (a : Access) (i : Instr) : decodeAccess a.word = .ok i ↔ a.primitive = some i := by
  simp only [decodeAccess, Access.ofWord_word]
  cases a.primitive <;> simp

/-- A word that decodes to a primitive is the word of an access that is this primitive (R70, R71). -/
theorem access_of_decodeAccess {w : Half} {i : Instr} (h : decodeAccess w = .ok i) :
    ∃ a, Access.ofWord w = .ok a ∧ a.primitive = some i := by
  cases hw : Access.ofWord w with
  | error r => simp [decodeAccess, hw] at h
  | ok a =>
    obtain ⟨rfl, -, -⟩ := Access.word_of_ofWord hw
    exact ⟨a, rfl, (decodeAccess_word a i).mp h⟩

/-- A register's number is at most 8 (R16). -/
theorem UnitReg.bits_le (r : UnitReg) : r.bits.toNat ≤ 8 := by cases r <;> decide

/-! ## The statements on encodings -/

/-- Settles O1: a command's frame and a primitive's access each decode to the instruction. -/
theorem decodeOfEncodeIsTheInstruction : Obligations.DecodeOfEncodeIsTheInstruction := by
  intro i hwf
  rcases i.frame_or_access with ⟨bytes, hf⟩ | ⟨a, ha⟩
  · rw [encode_of_frame hf]
    exact decodeFrame_of_frame hf
  · rw [encode_of_access ha]
    exact (decodeAccess_word a i).mpr (Access.primitive_of_access hwf ha)

/-- Settles O2: a frame that decodes is the frame of its command. -/
theorem decodedFrameIsTheCommandsFrame : Obligations.DecodedFrameIsTheCommandsFrame := by
  intro bytes i h
  have hf := frame_of_decodeFrame h
  exact ⟨encode_of_frame hf, Instr.wellFormed_of_frame hf⟩

/-- Settles O3: a word that decodes is the word of an access, and that access is its primitive's. -/
theorem decodedAccessWordIsThePrimitivesWord : Obligations.DecodedAccessWordIsThePrimitivesWord := by
  intro w i h
  obtain ⟨a, hw, hp⟩ := access_of_decodeAccess h
  obtain ⟨hword, h13, hreg⟩ := Access.word_of_ofWord hw
  obtain ⟨ha, hwf⟩ := Instr.access_of_primitive hp
  exact ⟨hword ▸ encode_of_access ha, hwf, h13, hreg ▸ a.reg.bits_le⟩

/-- Settles O5: `le16` puts the second byte above the first. -/
theorem frameOperandsAreLittleEndian : Obligations.FrameOperandsAreLittleEndian :=
  ⟨fun _ _ _ _ _ _ => rfl, fun _ _ => rfl, fun _ _ _ _ _ _ _ _ _ _ _ _ _ _ => rfl, fun _ _ => rfl⟩

/-- Settles O6: the decoder evaluated on each word and frame. -/
theorem wordsOfTheSpecDecode : Obligations.WordsOfTheSpecDecode := by
  unfold Obligations.WordsOfTheSpecDecode
  decide

end Sys2Proof

namespace Sys2Proof.Machine

/-! ## A step and what it decodes -/

/-- The host's turn submits its frame (R80). -/
theorem stepWith_submit {p : Params} {s : State} {bytes : List Byte} {rest : List Turn}
    (h : s.turns = .submit bytes :: rest) : stepWith p s = submitFrame bytes { s with turns := rest } := by
  simp only [stepWith, h]

theorem stepWith_engineTurn {p : Params} {s : State} {rest : List Turn} (h : s.turns = .engine :: rest) :
    stepWith p s = engineStep p { s with turns := rest } := by
  simp only [stepWith, h]

theorem submitFrame_ok {bytes : List Byte} {i : Instr} (h : decodeFrame bytes = .ok i) (s : State) :
    submitFrame bytes s = exec i s := by
  simp only [submitFrame, h]

/-- A frame that does not decode is refused (R66). -/
theorem submitFrame_refused {bytes : List Byte} (h : ¬ ∃ i, decodeFrame bytes = .ok i) (s : State) :
    ∃ e, submitFrame bytes s = .refused (.frameRejected e) := by
  unfold submitFrame
  cases hd : decodeFrame bytes with
  | ok i => exact absurd ⟨i, hd⟩ h
  | error e => exact ⟨e, rfl⟩

/-- Settles O4: the frames that decode are those of `decodeFrame_ok_iff`, and the submit turn refuses any other. -/
theorem frameDecodesExactlyWhenOpcodeAndLengthFit : Obligations.FrameDecodesExactlyWhenOpcodeAndLengthFit := by
  intro bytes s prm rest ht
  refine ⟨decodeFrame_ok_iff bytes, fun h => ?_⟩
  rw [stepWith_submit ht]
  exact submitFrame_refused h _

/-- A step of the engine that is a register access runs the primitive and then what the engine makes of it (R50). -/
theorem engineStep_issue {s : State} {i : Instr} (p : Params) (h : s.issue = some i) :
    ∃ t, exec i s = .next t ∧ engineStep p s = .next (t.advance p) := by
  obtain ⟨a, ha, -⟩ := State.issue_access h
  obtain ⟨x, hx⟩ := exec_accessed ha s
  exact ⟨_, hx, by simp only [engineStep, h, hx]⟩

/-- ACTIVATE masks the clock source it selects to two bits (R82, R106). -/
theorem ActStep.instr_wellFormed (k : ActStep) (w : Working) : (k.instr w).wellFormed = true := by
  cases k
  case clock => exact decide_eq_true (BitVec.le_def.mpr Nat.and_le_right)
  all_goals rfl

/-- The engine issues only primitives that its access words can carry (R71). -/
theorem State.issue_wellFormed {s : State} {i : Instr} (h : s.issue = some i) : i.wellFormed = true := by
  unfold State.issue at h
  cases hst : s.st <;> simp only [hst, Option.some.injEq, reduceCtorEq] at h
  case act k => exact h ▸ k.instr_wellFormed s.w
  case stop =>
    split at h <;> cases h
    rfl
  all_goals
    subst h
    rfl

/-- Settles O7: the submit turn runs `exec` of the decoded frame, the engine's turn that of the primitive it issues. -/
theorem stepRunsTheDecodedInstruction : Obligations.StepRunsTheDecodedInstruction := by
  intro s i bytes rest
  refine ⟨fun ht hd => ?_, fun ht hi => ⟨?_, ?_, ?_⟩, fun ht hi => ?_⟩
  · exact (stepWith_submit ht).trans (submitFrame_ok hd _)
  · exact decodeOfEncodeIsTheInstruction i (State.issue_wellFormed hi)
  · obtain ⟨a, ha, -⟩ := State.issue_access hi
    exact ⟨a.word, encode_of_access ha⟩
  · obtain ⟨t, hx, hs⟩ := engineStep_issue (s := { s with turns := rest }) Config.params hi
    exact ⟨t, hx, (stepWith_engineTurn ht).trans hs⟩
  · obtain ⟨t, hx, hs⟩ := engineStep_issue Config.params hi
    exact ⟨t, hx, (stepWith_engine ht).trans hs⟩

end Sys2Proof.Machine
end

section
/-! PROOFS. The build commands from acceptance to `raise` (R80, R81, R83): the checks' outcome, and the record that
consecutive one-byte writes leave. -/

namespace Sys2Proof.Machine

/-! ## The checks of operands (R68) -/

theorem isNull_iff (p : Half) : isNull p = true ↔ p = 0 := by simp only [isNull, beq_iff_eq]

theorem clockSourceOk_iff (c : Byte) : clockSourceOk c = true ↔ c = 0 ∨ c = 1 ∨ c = 2 := by
  simp only [clockSourceOk, Bool.or_eq_true, beq_iff_eq, or_assoc]

theorem directionOk_iff (d : Byte) : directionOk d = true ↔ d = 0 ∨ d = 1 := by
  simp only [directionOk, Bool.or_eq_true, beq_iff_eq]

/-- An id names no unit exactly when it is neither 0 nor 1. -/
theorem ofId_isNone_iff (b : Byte) : (UnitId.ofId b).isNone = true ↔ ¬ (b = 0 ∨ b = 1) := by
  unfold UnitId.ofId
  split
  next h => exact iff_of_false nofun (not_not_intro (.inl h))
  next h0 =>
    split
    next h1 => exact iff_of_false nofun (not_not_intro (.inr h1))
    next h1 => exact iff_of_true rfl (not_or.2 ⟨h0, h1⟩)

/-! ## The outcome of the build commands' checks -/

theorem buildcfgPlan_null (id clk : Byte) (div : Half) : buildcfgPlan 0 id clk div = .build [] .badParameters := rfl

theorem buildcfgPlan_bad {p : Half} {id clk : Byte} (div : Half) (hp : p ≠ 0)
    (h : ¬ ((id = 0 ∨ id = 1) ∧ (clk = 0 ∨ clk = 1 ∨ clk = 2))) :
    buildcfgPlan p id clk div = .build (storeConfigError p .badParameters) .badParameters := by
  unfold buildcfgPlan
  rw [if_neg (mt (isNull_iff p).1 hp)]
  split
  · rfl
  next hid =>
    rw [ofId_isNone_iff, not_not] at hid
    have hclk : clockSourceOk clk = false :=
      Bool.eq_false_iff.2 fun hclk => h ⟨hid, (clockSourceOk_iff clk).1 hclk⟩
    rw [hclk]
    rfl

theorem buildcfgPlan_good {p : Half} {id clk : Byte} (div : Half) (hp : p ≠ 0) (hid : id = 0 ∨ id = 1)
    (hclk : clk = 0 ∨ clk = 1 ∨ clk = 2) :
    buildcfgPlan p id clk div = .build (storeConfig p id clk div) .noError := by
  unfold buildcfgPlan
  rw [if_neg (mt (isNull_iff p).1 hp), if_neg (fun h => (ofId_isNone_iff id).1 h hid), (clockSourceOk_iff clk).2 hclk]
  rfl

/-- Checks 2 to 6 of BUILDTXN pass exactly when the operands are good; check 6 asks no more of `respPtr` than check 2
does (R83). -/
theorem buildtxnChecks_iff (id : Byte) (outPtr addr : Half) (dir : Byte) (respLen respPtr : Half) :
    buildtxnChecks id outPtr addr dir respLen respPtr = true ↔
      outPtr ≠ 0 ∧ respPtr ≠ 0 ∧ addr.toNat ≤ 255 ∧ (dir = 0 ∨ dir = 1) ∧ (id = 0 ∨ id = 1) ∧
        (dir = 1 → respLen ≠ 0) := by
  have haddr : Config.maxAddr < addr ↔ ¬ addr.toNat ≤ 255 := by
    rw [Nat.not_le]
    exact Iff.rfl
  simp only [buildtxnChecks, Bool.or_eq_true, Bool.and_eq_true, isNull_iff, haddr, Bool.not_eq_true',
    ← Bool.not_eq_true, directionOk_iff, ofId_isNone_iff, isReceive_iff, beq_iff_eq]
  split_ifs <;> tauto

theorem buildtxnPlan_null (id : Byte) (outPtr outLen addr : Half) (dir : Byte) (respLen respPtr : Half) :
    buildtxnPlan 0 id outPtr outLen addr dir respLen respPtr = .build [] .badParameters := rfl

section
variable {p : Half} {id : Byte} {outPtr addr : Half} {dir : Byte} {respLen respPtr : Half} (outLen : Half) (hp : p ≠ 0)
include hp

theorem buildtxnPlan_bad (h : buildtxnChecks id outPtr addr dir respLen respPtr = false) :
    buildtxnPlan p id outPtr outLen addr dir respLen respPtr =
      .build (storeDescriptorError p .badParameters) .badParameters := by
  rw [buildtxnPlan, if_neg (mt (isNull_iff p).1 hp), h]
  rfl

theorem buildtxnPlan_good (h : buildtxnChecks id outPtr addr dir respLen respPtr = true) :
    buildtxnPlan p id outPtr outLen addr dir respLen respPtr =
      .build (storeDescriptor p id dir addr outPtr outLen respLen respPtr) .noError := by
  rw [buildtxnPlan, if_neg (mt (isNull_iff p).1 hp), h]
  rfl

end

/-! ## Bytes of a record -/

theorem writesAt_length (p : Half) (l : List Byte) : (writesAt p l).length = l.length := by
  induction l generalizing p with
  | nil => rfl
  | cons b rest ih => simp only [writesAt, List.length_cons, ih]

/-- Host memory holds the bytes `l` from `p` on, byte `k` at `p + k` (R42, R47). -/
def State.HoldsAt (s : State) (p : Half) (l : List Byte) : Prop :=
  ∀ k b, l[k]? = some b → s.memRead (p + BitVec.ofNat 16 k) = b

theorem State.HoldsAt.first {s : State} {p : Half} {b : Byte} {l : List Byte} (h : s.HoldsAt p (b :: l)) :
    s.memRead p = b := by
  rw [← h 0 b rfl]
  exact congrArg s.memRead (BitVec.add_zero p).symm

/-- A record whose bytes are a Descriptor's is that Descriptor's (R45). -/
theorem State.HoldsAt.descriptorAt {s : State} {p : Half} {id dir : Byte} {addr outPtr outLen respLen respPtr : Half}
    (h : s.HoldsAt p (descriptorBytes id dir addr outPtr outLen respLen respPtr)) :
    s.descriptorAt p = { interfaceId := id, direction := dir, slaveAddress := addr, outPtr := outPtr, outLen := outLen,
                         respLen := respLen, respPtr := respPtr, valid := 0x01 } := by
  have h16 : ∀ (lo hi : Half) (x : Half), s.memRead lo = lowByte x → s.memRead hi = highByte x →
      s.memRead hi ++ s.memRead lo = x := by
    intro lo hi x hlo hhi
    rw [hlo, hhi]
    exact le16_low_high x
  unfold State.descriptorAt
  congr 1
  · exact h.first
  · exact h 1 _ rfl
  · exact h16 _ _ addr (h 2 _ rfl) (h 3 _ rfl)
  · exact h16 _ _ outPtr (h 4 _ rfl) (h 5 _ rfl)
  · exact h16 _ _ outLen (h 6 _ rfl) (h 7 _ rfl)
  · exact h16 _ _ respLen (h 8 _ rfl) (h 9 _ rfl)
  · exact h16 _ _ respPtr (h 10 _ rfl) (h 11 _ rfl)
  · exact h 12 _ rfl

/-! ## Acceptance and `raise` -/

/-- The machine with a command accepted at the first place of its rule (R80). -/
abbrev State.accepted (s : State) (first : EngineState) : State := { s with busy := true, st := first }

section
variable {s : State} (hb : s.busy = false) (hst : s.st = .idle)
include hb

/-- An idle machine accepts a command (R80). -/
theorem State.accept_idle (first : EngineState) : s.accept first = .next (s.accepted first) := by
  simp only [State.accept, hb, Bool.false_eq_true, if_false]

include hst

/-- A `raise` puts a machine that was idle before the command back into S_IDLE with `BUSY` = 0: what else the command
changed, and `RESULT`, are the difference (R80, R191). -/
theorem State.raise_from_idle (t : State) (hret : t.ret = s.ret) (hturns : t.turns = s.turns) (c : ErrorCode) :
    t.raise c = { s with w := t.w, active := t.active, units := t.units, mem := t.mem, result := c.byte } := by
  rw [State.raise, hret, hturns, ← hst, ← hb]

variable (ht : s.turns = [])
include ht

/-- A build command from its acceptance to its `raise` (R81, R83). -/
theorem runWith_accepted_build (prm : Params) (ws : List (Half × Byte)) (c : ErrorCode) :
    runWith prm (ws.length + 1) (s.accepted (.build ws c)) =
      .next { s with mem := (s.writes ws).mem, result := c.byte } := by
  let t := s.accepted (.build ws c)
  have hmem : (t.writes ws).mem = (s.writes ws).mem := State.writes_mem_congr ws rfl
  have hwrites : t.writes ws = { t with mem := (s.writes ws).mem } := hmem ▸ State.writes_eq t ws
  rw [runWith_build prm (s := t) ht rfl, hwrites]
  exact congrArg Host.Outcome.next (State.raise_from_idle hb hst { t with mem := (s.writes ws).mem } rfl rfl c)

/-- A build command that writes consecutive bytes leaves those and its code, and changes nothing else. -/
theorem runWith_accepted_record (prm : Params) (hwf : Memory.wf s.mem = true) (p : Half) (l : List Byte)
    (hl : l.length ≤ 65536) (c : ErrorCode) :
    ∃ t, runWith prm (l.length + 1) (s.accepted (.build (writesAt p l) c)) = .next t ∧
      t = { s with mem := t.mem, result := c.byte } ∧ t.HoldsAt p l ∧
      ∀ a : Half, (∀ k, k < l.length → a ≠ p + BitVec.ofNat 16 k) → t.memRead a = s.memRead a := by
  have hrun := runWith_accepted_build hb hst ht prm (writesAt p l) c
  rw [writesAt_length] at hrun
  refine ⟨_, hrun, rfl, fun k b hk => ?_, fun a ha => ?_⟩
  · obtain ⟨hlt, he⟩ := List.getElem?_eq_some_iff.1 hk
    exact (State.memRead_writesAt hwf hl hlt).trans he
  · refine State.memRead_writes_other hwf fun x hx => ?_
    obtain ⟨k, hk, he⟩ := mem_writesAt hx
    exact he ▸ ha k hk

/-- A failed build raises `BadParameters` and writes the record's error byte alone (R81, R83). -/
theorem runWith_accepted_error (prm : Params) (hwf : Memory.wf s.mem = true) (p : Half) :
    ∃ t, runWith prm 2 (s.accepted (.build (writesAt p [ErrorCode.badParameters.byte]) .badParameters)) = .next t ∧
      t = { s with mem := t.mem, result := 2 } ∧ t.memRead p = 2 ∧
      ∀ a : Half, a ≠ p → t.memRead a = s.memRead a := by
  obtain ⟨t, hrun, heq, hrec, hframe⟩ :=
    runWith_accepted_record hb hst ht prm hwf p [ErrorCode.badParameters.byte] (by decide) .badParameters
  refine ⟨t, hrun, heq, hrec.first, fun a ha => hframe a fun k hk => ?_⟩
  obtain rfl := Nat.lt_one_iff.1 hk
  exact fun he => ha (he.trans (BitVec.add_zero p))

/-- A build with a null pointer raises `BadParameters` and changes nothing else (R81, R83). -/
theorem runWith_accepted_null (prm : Params) :
    runWith prm 1 (s.accepted (.build [] .badParameters)) = .next { s with result := 2 } :=
  runWith_accepted_build hb hst ht prm [] .badParameters

end

/-! ## BUILDCFG and BUILDTXN -/

/-- Settles O31: each outcome of the checks is a list of consecutive one-byte writes and a code. -/
theorem buildcfgWritesTheConfigRecord : Obligations.BuildcfgWritesTheConfigRecord := by
  intro prm s p id clk div hb hst ht hwf idOk clkOk
  have haccept : exec (.buildcfg p id clk div) s = .next (s.accepted (buildcfgPlan p id clk div)) :=
    State.accept_idle hb _
  refine ⟨fun hp hid hclk => ?_, fun hp hbad => ?_, fun hp => ?_⟩
  · rw [buildcfgPlan_good div hp hid hclk] at haccept
    obtain ⟨t, hrun, heq, hrec, hframe⟩ :=
      runWith_accepted_record hb hst ht prm hwf p (configBytes id clk div) (by simp [configBytes]) .noError
    exact ⟨_, t, haccept, rfl, rfl, hrun, heq, hrec.first, hrec 1 _ rfl, hrec 2 _ rfl, hrec 3 _ rfl, hrec 4 _ rfl,
      hrec 5 _ rfl, hframe⟩
  · rw [buildcfgPlan_bad div hp hbad] at haccept
    obtain ⟨t, hrun, heq, hrec, hframe⟩ := runWith_accepted_error hb hst ht prm hwf (p + configErrorOffset)
    exact ⟨_, t, haccept, hrun, heq, hrec, hframe⟩
  · subst hp
    exact ⟨_, haccept, runWith_accepted_null hb hst ht prm⟩

/-- Settles O32: each outcome of the checks is a list of consecutive one-byte writes and a code. -/
theorem buildtxnWritesTheDescriptorRecord : Obligations.BuildtxnWritesTheDescriptorRecord := by
  intro prm s p id outPtr outLen addr dir respLen respPtr hb hst ht hwf good i
  have haccept : exec i s = .next (s.accepted (buildtxnPlan p id outPtr outLen addr dir respLen respPtr)) :=
    State.accept_idle hb _
  have hchecks : buildtxnChecks id outPtr addr dir respLen respPtr = true ↔ good :=
    buildtxnChecks_iff id outPtr addr dir respLen respPtr
  refine ⟨fun hp hgood => ?_, fun hp hbad => ?_, fun hp => ?_⟩
  · rw [buildtxnPlan_good outLen hp (hchecks.2 hgood)] at haccept
    obtain ⟨t, hrun, heq, hrec, hframe⟩ := runWith_accepted_record hb hst ht prm hwf p
      (descriptorBytes id dir addr outPtr outLen respLen respPtr) (by simp [descriptorBytes]) .noError
    exact ⟨_, t, haccept, rfl, rfl, hrun, heq, hrec.descriptorAt, hrec 13 _ rfl, hframe⟩
  · rw [buildtxnPlan_bad outLen hp (Bool.eq_false_iff.2 (mt hchecks.1 hbad))] at haccept
    obtain ⟨t, hrun, heq, hrec, hframe⟩ := runWith_accepted_error hb hst ht prm hwf (p + descriptorErrorOffset)
    exact ⟨_, t, haccept, hrun, heq, hrec, hframe⟩
  · subst hp
    exact ⟨_, haccept, runWith_accepted_null hb hst ht prm⟩

end Sys2Proof.Machine
end

section
/-! PROOFS. The checks of ACTIVATE and EXECUTE (R82, R84, R190): the record is read without a register access, and each
check that fails leads to a `raise` of its code. -/

namespace Sys2Proof.Machine

/-! ## Reading a record -/

/-- `n` bytes of a record are still to be read before its checks (R44, R45). -/
inductive Loading : EngineState → Nat → Prop
  | config {ptr : Half} {got : List Byte} {n : Nat} (h : got.length + n = configLoadLength) :
    Loading (.actLoad ptr got) n
  | descriptor {ptr : Half} {got : List Byte} {n : Nat} (h : got.length + n = descriptorLoadLength) :
    Loading (.entryLoad ptr got) n

theorem State.loadNext_length (s : State) (ptr : Half) (got : List Byte) :
    (s.loadNext ptr got).length = got.length + 1 := by
  simp only [State.loadNext, List.length_append, List.length_singleton]

/-- A byte of a record that is not its last leaves one byte fewer to read. -/
theorem State.internal_loading {s : State} {n : Nat} (h : Loading s.st (n + 2)) : Loading s.internal.st (n + 1) := by
  unfold State.internal
  generalize hst : s.st = e at h ⊢
  cases h with
  | config h =>
    dsimp only [State.loadConfig]
    rw [if_pos (by rw [State.loadNext_length]; omega)]
    exact .config (by rw [State.loadNext_length]; omega)
  | descriptor h =>
    dsimp only [State.loadDescriptor]
    rw [if_pos (by rw [State.loadNext_length]; omega)]
    exact .descriptor (by rw [State.loadNext_length]; omega)

theorem State.issue_loading {s : State} {n : Nat} (h : Loading s.st n) : s.issue = none := by
  unfold State.issue
  generalize s.st = e at h ⊢
  cases h <;> rfl

section
variable (prm : Params) {s : State} (ht : s.turns = [])
include ht

/-- With no move to come, a step of the engine that is no register access is its internal one. -/
theorem stepWith_internal (hi : s.issue = none) : stepWith prm s = .next s.internal := by
  simp only [stepWith, ht, engineStep, hi]

theorem State.pending_engine : s.pending = s.issue := by simp only [State.pending, ht]

end

theorem InternalMove.turns {s t : State} (h : InternalMove s t) : t.turns = s.turns := by cases h <;> rfl

/-- Reading a record issues no access. -/
theorem traceWith_loading (prm : Params) {s : State} {n : Nat} (ht : s.turns = []) (h : Loading s.st n) :
    traceWith prm n s = [] := by
  induction n generalizing s with
  | zero => rfl
  | succ n ih =>
    have hi := State.issue_loading h
    rw [traceWith_internal prm n (stepWith_internal prm ht hi) ((State.pending_engine ht).trans hi)]
    cases n with
    | zero => rfl
    | succ n => exact ih ((State.internal_move hi).turns.trans ht) (State.internal_loading h)

/-- A run without a register access, and one more step without one. -/
theorem runWith_then_internal (prm : Params) {s t t' : State} {n : Nat} (hrun : runWith prm n s = .next t)
    (htrace : traceWith prm n s = []) (ht : t.turns = []) (hi : t.issue = none) (hstep : t.internal = t') :
    runWith prm (n + 1) s = .next t' ∧ traceWith prm (n + 1) s = [] := by
  have hnext : stepWith prm t = .next t' := (stepWith_internal prm ht hi).trans (congrArg _ hstep)
  rw [runWith_add prm n 1 hrun, traceWith_add prm n 1 hrun, htrace, List.nil_append]
  exact ⟨runWith_succ prm 0 hnext, traceWith_internal prm 0 hnext ((State.pending_engine ht).trans hi)⟩

/-! ## The checks of a record -/

section
variable (s : State) (c : ConfigRec)

theorem State.activateChecks_invalid (h : c.valid ≠ 0x01) :
    s.activateChecks c = { s with w := { s.w with c := c }, st := .actRaise .notInitialized } := by
  have hv : validSet c.valid = false := beq_false_of_ne h
  simp [State.activateChecks, hv, State.setSt]

theorem State.activateChecks_noUnit (hv : c.valid = 0x01) (hid : UnitId.ofId c.interfaceId = none) :
    s.activateChecks c = { s with w := { s.w with c := c }, st := .actRaise .unspecifiedError } := by
  simp [State.activateChecks, hv, validSet, hid, State.setSt]

theorem State.activateChecks_passed {u : UnitId} (hv : c.valid = 0x01) (hid : UnitId.ofId c.interfaceId = some u) :
    s.activateChecks c = { s with w := { s.w with c := c, u := u }, st := .act .hold } := by
  simp [State.activateChecks, hv, validSet, hid]

end

section
variable (s : State) (d : Descriptor)

theorem State.executeChecks_invalid (h : d.valid ≠ 0x01) :
    s.executeChecks d = { s with w := { s.w with d := d }, st := .entryRaise .notInitialized } := by
  have hv : validSet d.valid = false := beq_false_of_ne h
  simp [State.executeChecks, hv, State.setSt]

theorem State.executeChecks_noUnit (hv : d.valid = 0x01) (hid : UnitId.ofId d.interfaceId = none) :
    s.executeChecks d = { s with w := { s.w with d := d }, st := .entryRaise .unspecifiedError } := by
  simp [State.executeChecks, hv, validSet, hid, State.setSt]

variable {u : UnitId} (hv : d.valid = 0x01) (hid : UnitId.ofId d.interfaceId = some u)
include hv hid

theorem State.executeChecks_inactive (ha : s.active.get u = false) :
    s.executeChecks d = { s with w := { s.w with d := d, u := u }, st := .entryRaise .interfaceNotActive } := by
  simp [State.executeChecks, hv, validSet, hid, ha, State.setSt]

theorem State.executeChecks_passed (ha : s.active.get u = true) :
    s.executeChecks d = { s with st := .startAddr, w := { s.w with
      d := d, u := u, txIndex := 0, rxIndex := 0, nackCount := 0, stopIssued := false } } := by
  simp [State.executeChecks, hv, validSet, hid, ha]

end

theorem ofId_bit (u : UnitId) : UnitId.ofId (u.bit.setWidth 8) = some u := by cases u <;> rfl

theorem ofId_none {b : Byte} (h0 : b ≠ 0) (h1 : b ≠ 1) : UnitId.ofId b = none :=
  Option.isNone_iff_eq_none.1 ((ofId_isNone_iff b).2 (not_or.2 ⟨h0, h1⟩))

/-! ## ACTIVATE and EXECUTE up to their checks -/

section
variable (prm : Params) {s : State} {p : Half} (hb : s.busy = false) (hst : s.st = .idle) (ht : s.turns = [])
include hb

theorem exec_activate_idle (hp : p ≠ 0) : exec (.activate p) s = .next (s.accepted (.actLoad p [])) := by
  have hfirst : exec (.activate p) s = _ := State.accept_idle hb _
  rwa [if_neg (mt (isNull_iff p).1 hp)] at hfirst

theorem exec_execute_idle (hp : p ≠ 0) : exec (.execute p) s = .next (s.accepted (.entryLoad p [])) := by
  have hfirst : exec (.execute p) s = _ := State.accept_idle hb _
  rwa [if_neg (mt (isNull_iff p).1 hp)] at hfirst

include hst ht

/-- ACTIVATE of a record that fails a check. -/
theorem activate_raises (hp : p ≠ 0) (w : Working) {c : ErrorCode}
    (hchecks : ∀ st, (s.accepted st).activateChecks (s.configAt p) = { s.accepted (.actRaise c) with w := w }) :
    ∃ t, exec (.activate p) s = .next t ∧ runWith prm 6 t = .next { s with result := c.byte, w := w } ∧
      traceWith prm 6 t = [] := by
  have hload := runWith_loadConfig prm (s := s.accepted (.actLoad p [])) ht rfl
  refine ⟨_, exec_activate_idle hb hp, ?_⟩
  exact runWith_then_internal prm (hload.trans (congrArg _ (hchecks _))) (traceWith_loading prm ht (.config rfl)) ht rfl
    (State.raise_from_idle hb hst { s.accepted (.actRaise c) with w := w } rfl rfl c)

/-- EXECUTE of a record that fails a check. -/
theorem execute_raises (hp : p ≠ 0) (w : Working) {c : ErrorCode}
    (hchecks : ∀ st, (s.accepted st).executeChecks (s.descriptorAt p) = { s.accepted (.entryRaise c) with w := w }) :
    ∃ t, exec (.execute p) s = .next t ∧ runWith prm 14 t = .next { s with result := c.byte, w := w } ∧
      traceWith prm 14 t = [] := by
  obtain ⟨got, hload⟩ := runWith_loadDescriptor prm (s := s.accepted (.entryLoad p [])) ht rfl
  refine ⟨_, exec_execute_idle hb hp, ?_⟩
  exact runWith_then_internal prm (hload.trans (congrArg _ (hchecks _))) (traceWith_loading prm ht (.descriptor rfl)) ht
    rfl (State.raise_from_idle hb hst { s.accepted (.entryRaise c) with w := w } rfl rfl c)

end

/-- Settles O34: a null pointer is raised at once, and the two checks of the record after its five bytes. -/
theorem activateChecksTheRecordFirst : Obligations.ActivateChecksTheRecordFirst := by
  intro prm s p hb hst ht c
  refine ⟨fun hp => ?_, fun hp hv => ?_, fun hp hv h0 h1 => ?_⟩
  · subst hp
    exact ⟨_, State.accept_idle hb _, runWith_then_internal prm rfl rfl ht rfl
      (State.raise_from_idle hb hst (s.accepted (.actRaise .notInitialized)) rfl rfl .notInitialized)⟩
  · exact activate_raises prm hb hst ht hp { s.w with c := c } fun st => State.activateChecks_invalid _ c hv
  · exact activate_raises prm hb hst ht hp { s.w with c := c } fun st =>
      State.activateChecks_noUnit _ c hv (ofId_none h0 h1)

/-- Settles O37: a null pointer is raised at once, and the three checks of the record after its thirteen bytes. -/
theorem executeEntryChecksInOrder : Obligations.ExecuteEntryChecksInOrder := by
  intro prm s p hb hst ht d
  refine ⟨fun hp => ?_, fun hp hv => ?_, fun hp hv h0 h1 => ?_, fun u hp hv hid ha => ?_, fun u hp hv hid ha => ?_⟩
  · subst hp
    exact ⟨_, State.accept_idle hb _, runWith_then_internal prm rfl rfl ht rfl
      (State.raise_from_idle hb hst (s.accepted (.entryRaise .notInitialized)) rfl rfl .notInitialized)⟩
  · exact execute_raises prm hb hst ht hp { s.w with d := d } fun st => State.executeChecks_invalid _ d hv
  · exact execute_raises prm hb hst ht hp { s.w with d := d } fun st =>
      State.executeChecks_noUnit _ d hv (ofId_none h0 h1)
  · exact execute_raises prm hb hst ht hp { s.w with d := d, u := u } fun st =>
      State.executeChecks_inactive _ d hv (hid ▸ ofId_bit u) ha
  · obtain ⟨got, hload⟩ := runWith_loadDescriptor prm (s := s.accepted (.entryLoad p [])) ht rfl
    refine ⟨_, exec_execute_idle hb hp, rfl, rfl, hload.trans ?_, traceWith_loading prm ht (.descriptor rfl)⟩
    exact congrArg _ (State.executeChecks_passed _ d hv (hid ▸ ofId_bit u) ha)

end Sys2Proof.Machine
end

section
/-! PROOFS. ACTIVATE's ten accesses (R82): what each leaves in the unit's registers, their run, and what follows for a
valid Config (R89, R90). -/

namespace Sys2Proof.Machine

/-! ## No bus event inside ACTIVATE (R90) -/

theorem BusEvent.enabled_of_held (e : BusEvent) {r : UnitRegs} (h : r.swrst = true) : e.enabled r = false := by
  simp only [BusEvent.enabled, h, Bool.not_true, Bool.false_and]

theorem BusEvent.enabled_of_zero (e : BusEvent) {r : UnitRegs} (h : r.ctl0 = 0x00) : e.enabled r = false := by
  have hc : r.configured = false := by rw [UnitRegs.configured, h]; rfl
  simp only [BusEvent.enabled, hc, Bool.and_false, Bool.false_and]

/-- Settles O21: the unit is held in reset at every later access but the fourth, where its modes are zero. -/
theorem noBusEventInsideActivate : Obligations.NoBusEventInsideActivate := by
  intro s u k e hok hst hu hk
  have hact : s.activating u = some k := hu ▸ State.activating_self hst
  simp only [State.unitOk, hact] at hok
  cases k <;> simp only [Bool.and_eq_true, beq_iff_eq] at hok
  case hold => exact absurd rfl hk
  case holdAgain => exact e.enabled_of_zero hok.2
  case zero0 | zero1 | modes | clock | pins => exact e.enabled_of_held hok.1.1
  case baudLow | baudHigh | release => exact e.enabled_of_held hok.1.1.1

/-! ## The ten accesses -/

/-- What an access of ACTIVATE leaves in its unit's registers (R101 to R109). -/
def ActStep.regs (k : ActStep) (c : ConfigRec) (r : UnitRegs) : UnitRegs :=
  match k with
  | .hold | .holdAgain => { r with ctl1 := r.ctl1 ||| 0x01 }
  | .zero0 => { r with ctl0 := r.ctl0 &&& 0xF0 }
  | .zero1 => { r with ctl1 := r.ctl1 &&& 0x28 }
  | .modes => { r with ctl0 := r.ctl0 ||| 0x0F }
  | .clock => { r with ctl1 := r.ctl1 ||| (c.clockSource &&& 0x03 &&& 0x03) <<< 6 }
  | .pins => { r with psel := r.psel ||| 0x03 }
  | .baudLow => { r with brl := lowByte c.baudDivider }
  | .baudHigh => { r with brh := highByte c.baudDivider }
  | .release => { r with ctl1 := r.ctl1 &&& ~~~0x01 }

/-- What an access of ACTIVATE leaves in its unit's `ACTIVE` bit (R101, R102). -/
def ActStep.active (k : ActStep) (b : Bool) : Bool :=
  match k with
  | .hold | .holdAgain => false
  | .release => true
  | .zero0 | .zero1 | .modes | .clock | .pins | .baudLow | .baudHigh => b

/-- The state after an access of ACTIVATE (R82). -/
def State.programmed (s : State) (k : ActStep) : State :=
  (s.withUnit s.w.u (k.regs s.w.c (s.regs s.w.u)) (k.active (s.active.get s.w.u))).setSt k.next

theorem State.setRegs_eq_withUnit (s : State) (u : UnitId) (r : UnitRegs) :
    s.setRegs u r = s.withUnit u r (s.active.get u) := by
  simp only [State.withUnit, State.setActive, State.setRegs_active, PerUnit.set_get]
  rfl

theorem engineStep_act (p : Params) {s : State} {k : ActStep} (h : s.st = .act k) :
    engineStep p s = .next (s.programmed k) := by
  cases k
  case hold => exact engineStep_hold p h
  case zero0 => rw [engineStep_zero0 p h, State.setRegs_eq_withUnit]; rfl
  case zero1 => rw [engineStep_zero1 p h, State.setRegs_eq_withUnit]; rfl
  case holdAgain => exact engineStep_holdAgain p h
  case modes => rw [engineStep_modes p h, State.setRegs_eq_withUnit]; rfl
  case clock => rw [engineStep_clock p h, State.setRegs_eq_withUnit]; rfl
  case pins => rw [engineStep_pins p h, State.setRegs_eq_withUnit]; rfl
  case baudLow => rw [engineStep_baudLow p h, State.setRegs_eq_withUnit]; rfl
  case baudHigh => rw [engineStep_baudHigh p h, State.setRegs_eq_withUnit]; rfl
  case release => exact engineStep_release p h

/-- ACTIVATE's accesses in order (R82). -/
def ActStep.order : List ActStep :=
  [.hold, .zero0, .zero1, .holdAgain, .modes, .clock, .pins, .baudLow, .baudHigh, .release]

/-- Each access of a list leads to the next one. -/
def ActStep.Leads : List ActStep → Prop := List.IsChain fun k k' => k.next = .act k'

theorem ActStep.order_leads : ActStep.Leads ActStep.order := by
  simp [ActStep.Leads, ActStep.order, ActStep.next]

/-- Accesses of ACTIVATE that lead from one to the next run in order, one a step (R82). -/
theorem runWith_act (prm : Params) {s : State} {ks : List ActStep} (ht : s.turns = [])
    (hst : ∀ k ∈ ks.head?, s.st = .act k) (hks : ActStep.Leads ks) :
    runWith prm ks.length s = .next (ks.foldl State.programmed s) ∧
      (traceWith prm ks.length s).map Prod.fst = ks.map fun k => k.instr s.w := by
  induction ks generalizing s with
  | nil => exact ⟨rfl, rfl⟩
  | cons k rest ih =>
    have hk : s.st = .act k := hst k rfl
    have hnext : stepWith prm s = .next (s.programmed k) := (stepWith_engine ht).trans (engineStep_act prm hk)
    have hpend : s.pending = some (k.instr s.w) := by simp only [State.pending, ht, State.issue, hk]
    obtain ⟨hlead, hrest⟩ := List.isChain_cons.1 hks
    obtain ⟨hrun, htrace⟩ := ih (s := s.programmed k) ht hlead hrest
    rw [List.length_cons, runWith_succ prm _ hnext, traceWith_access prm _ hnext hpend, List.map_cons, htrace]
    exact ⟨hrun, rfl⟩

/-! ## What the ten accesses leave -/

theorem State.withUnit_withUnit (s : State) (u : UnitId) (r r' : UnitRegs) (b b' : Bool) :
    (s.withUnit u r b).withUnit u r' b' = s.withUnit u r' b' := by
  simp only [State.withUnit, State.setRegs, State.setActive, PerUnit.set_set]

theorem State.programmed_withUnit (s : State) (k : ActStep) (r : UnitRegs) (b : Bool) (e : EngineState) :
    ((s.withUnit s.w.u r b).setSt e).programmed k =
      (s.withUnit s.w.u (k.regs s.w.c r) (k.active b)).setSt k.next := by
  have h : ((s.withUnit s.w.u r b).setSt e).programmed k = ((s.withUnit s.w.u r b).withUnit s.w.u
      (k.regs s.w.c ((s.withUnit s.w.u r b).regs s.w.u)) (k.active ((s.withUnit s.w.u r b).active.get s.w.u))).setSt
        k.next := rfl
  rw [h, State.withUnit_withUnit, State.withUnit_regs, State.withUnit_active]

/-- Accesses of ACTIVATE act on its unit's registers and `ACTIVE` bit one after the other, and on nothing else. -/
theorem State.foldl_programmed (s : State) (ks : List ActStep) (r : UnitRegs) (b : Bool) (e : EngineState) :
    ks.foldl State.programmed ((s.withUnit s.w.u r b).setSt e) =
      (s.withUnit s.w.u (ks.foldl (fun r k => k.regs s.w.c r) r) (ks.foldl (fun b k => k.active b) b)).setSt
        (ks.foldl (fun _ k => k.next) e) := by
  induction ks generalizing r b e with
  | nil => rfl
  | cons k rest ih => simp only [List.foldl_cons, State.programmed_withUnit, ih]

/-- A unit's registers set up for a Config (R82). -/
def UnitRegs.setUp (r : UnitRegs) (c : ConfigRec) : UnitRegs :=
  { r with ctl0 := 0x0F, ctl1 := c.clockSource.extractLsb' 0 2 ++ (0 : BitVec 6), psel := 0x03,
           brl := c.baudDivider.extractLsb' 0 8, brh := c.baudDivider.extractLsb' 8 8 }

theorem UnitRegs.foldl_order {r : UnitRegs} (h : r.reservedZero = true) (c : ConfigRec) :
    ActStep.order.foldl (fun r k => k.regs c r) r = r.setUp c := by
  have zeroModes : ∀ x : Byte, x &&& ~~~(0x0F : Byte) = 0 → x &&& 0xF0 ||| 0x0F = 0x0F := by decide
  have zeroControl : ∀ x : Byte, x &&& ~~~(0xD7 : Byte) = 0 → (x ||| 0x01) &&& 0x28 = 0 := by decide
  have hclock : ∀ x : Byte, ((0 : Byte) ||| (0x01 : Byte) ||| (x &&& 0x03 &&& 0x03) <<< 6) &&& ~~~(0x01 : Byte) =
      x.extractLsb' 0 2 ++ (0 : BitVec 6) := by decide
  have hres := (UnitRegs.reservedZero_iff r).1 h
  have hctl0 : r.ctl0 &&& 0xF0 ||| 0x0F = 0x0F := zeroModes _ (hres .CTL0)
  have hctl1 : (r.ctl1 ||| 0x01) &&& 0x28 = 0 := zeroControl _ (hres .CTL1)
  simp only [ActStep.order, List.foldl_cons, List.foldl_nil, ActStep.regs, hctl0, hctl1, hclock, routed_psel h]
  rfl

/-- ACTIVATE's ten accesses set its unit up for its Config and make it active (R82). -/
theorem runWith_order (prm : Params) {s : State} (ht : s.turns = []) (hst : s.st = .act .hold)
    (hres : (s.regs s.w.u).reservedZero = true) :
    runWith prm 10 s = .next ((s.withUnit s.w.u ((s.regs s.w.u).setUp s.w.c) true).setSt (.actRaise .noError)) ∧
      (traceWith prm 10 s).map Prod.fst = ActStep.order.map fun k => k.instr s.w := by
  have hrun := runWith_act prm (ks := ActStep.order) ht (fun k hk => by cases hk; exact hst) ActStep.order_leads
  have hfold := s.foldl_programmed ActStep.order (s.regs s.w.u) (s.active.get s.w.u) s.st
  rw [State.withUnit_self, UnitRegs.foldl_order hres] at hfold
  exact ⟨hrun.1.trans (congrArg _ hfold), hrun.2⟩

/-! ## ACTIVATE of a valid Config -/

/-- Settles O33: the record is read, the ten accesses run, and the command raises `NoError`. -/
theorem activateProgramsTheUnit : Obligations.ActivateProgramsTheUnit := by
  intro prm s p u hb hst ht hres hp c hv hid r'
  let t := s.accepted (.actLoad p [])
  let t1 : State := { s.accepted (.act .hold) with w := { s.w with c := c, u := u } }
  let t2 := (t1.withUnit u ((s.regs u).setUp c) true).setSt (.actRaise .noError)
  have hload : runWith prm 5 t = .next t1 := (runWith_loadConfig prm (s := t) ht rfl).trans
    (congrArg _ (State.activateChecks_passed _ c hv (hid ▸ ofId_bit u)))
  have hloadTrace : traceWith prm 5 t = [] := traceWith_loading prm ht (.config rfl)
  obtain ⟨hacts, hactsTrace⟩ : runWith prm 10 t1 = .next t2 ∧ _ := runWith_order prm (s := t1) ht rfl hres
  obtain ⟨hraise, hraiseTrace⟩ := runWith_then_internal prm (n := 0) (s := t2) rfl rfl ht rfl
    (State.raise_from_idle hb hst t2 rfl rfl .noError)
  refine ⟨t, _, exec_activate_idle hb hp, rfl, rfl, ?_, rfl, ?_⟩
  · exact (runWith_add prm 5 11 hload).trans ((runWith_add prm 10 1 hacts).trans hraise)
  · rw [traceWith_add prm 5 11 hload, hloadTrace, traceWith_add prm 10 1 hacts, hraiseTrace, List.nil_append,
      List.append_nil, ← Function.comp_def encode, ← List.map_map, hactsTrace]
    rfl

theorem UnitRegs.setUp_reservedZero {r : UnitRegs} (h : r.reservedZero = true) (c : ConfigRec) :
    (r.setUp c).reservedZero = true := by
  have hctl1 : ∀ x : Byte, (x.extractLsb' 0 2 ++ (0 : BitVec 6) : Byte) &&& ~~~(0xD7 : Byte) = 0 := by decide
  have h0 : (r.put .CTL0 0x0F).reservedZero = true := UnitRegs.put_reservedZero h (by decide)
  have h1 := UnitRegs.put_reservedZero (reg := .CTL1) h0 (hctl1 c.clockSource)
  exact UnitRegs.put_reservedZero (reg := .PSEL) (v := 0x03) h1 (by decide)

/-- Settles O35: the first activation leaves a machine that meets O33's hypotheses with the same record, and setting up
a unit twice for one Config is setting it up once. -/
theorem activateIsIdempotent : Obligations.ActivateIsIdempotent := by
  intro prm s t t' t2 t2' p u hb hst ht hres hp hv hid hexec hrun hexec2 hrun2
  obtain ⟨x, x', hx, -, -, hxrun, hx', -⟩ := activateProgramsTheUnit prm s p u hb hst ht hres hp hv hid
  obtain rfl : t = x := Host.Outcome.next.inj (hexec.symm.trans hx)
  obtain rfl : t' = x' := Host.Outcome.next.inj (hrun.symm.trans hxrun)
  have hregs : t'.regs u = (s.regs u).setUp (s.configAt p) := by
    rw [hx']
    exact PerUnit.get_set_same ..
  have hconfig : t'.configAt p = s.configAt p := by rw [hx']; rfl
  obtain ⟨y, y', hy, -, -, hyrun, hy', -⟩ := activateProgramsTheUnit prm t' p u (by rw [hx']; exact hb)
    (by rw [hx']; exact hst) (by rw [hx']; exact ht) (hregs ▸ UnitRegs.setUp_reservedZero hres _) hp (hconfig ▸ hv)
    (hconfig ▸ hid)
  obtain rfl : t2 = y := Host.Outcome.next.inj (hexec2.symm.trans hy)
  obtain rfl : t2' = y' := Host.Outcome.next.inj (hrun2.symm.trans hyrun)
  have hunits : t'.units.set u ((t'.regs u).setUp (t'.configAt p)) = t'.units := by
    have hsame : (t'.regs u).setUp (t'.configAt p) = t'.regs u := by rw [hregs, hconfig]; rfl
    rw [hsame]
    exact PerUnit.set_get ..
  have hactive : t'.active.set u true = t'.active := by
    rw [hx']
    exact PerUnit.set_set ..
  rw [hy']
  exact ⟨hunits, hactive, by rw [hx'], rfl⟩

/-! ## BUILDCFG and then ACTIVATE -/

/-- The divisor's halves are the divider's quotient and remainder by 256 (R21, R108, R109). -/
theorem half_bytes_toNat (h : Half) :
    (h.extractLsb' 0 8).toNat = h.toNat % 256 ∧ (h.extractLsb' 8 8).toNat = h.toNat / 256 := by
  have hlt := h.isLt
  simp only [BitVec.extractLsb'_toNat, Nat.shiftRight_eq_div_pow]
  omega

/-- The fields of `CTL1` that SelectClock and EnableUnit leave: `SSEL` is the clock source, `SWRST` is 0. -/
theorem clockBits_fields (clk : Byte) (h : clk.toNat ≤ 2) :
    ((clk.extractLsb' 0 2 ++ (0 : BitVec 6) : Byte).extractLsb' 6 2).toNat = clk.toNat ∧
      (clk.extractLsb' 0 2 ++ (0 : BitVec 6) : Byte).getLsbD 0 = false := by
  revert clk
  decide

/-- Settles O36: the record that BUILDCFG leaves is a valid Config for ACTIVATE, with the operands as its fields. -/
theorem builtConfigActivatesWithItsDivider : Obligations.BuiltConfigActivatesWithItsDivider := by
  intro prm s p u clk div hb hst ht hinv hp hclk
  simp only [State.inv, Bool.and_eq_true, and_assoc] at hinv
  obtain ⟨hwf, hres, -⟩ := hinv
  have hid : (u.bit.setWidth 8 : Byte) = 0 ∨ (u.bit.setWidth 8 : Byte) = 1 := by cases u <;> decide
  have hclk' : clk = 0 ∨ clk = 1 ∨ clk = 2 := by revert clk; decide
  obtain ⟨hbuild, -, -⟩ := buildcfgWritesTheConfigRecord prm s p (u.bit.setWidth 8) clk div hb hst ht hwf
  obtain ⟨t, t', hexec, -, -, hrun, ht', h0, h1, h2, h3, h4, -⟩ := hbuild hp hid hclk'
  have hconfig : t'.configAt p =
      { interfaceId := u.bit.setWidth 8, clockSource := clk, baudDivider := div, valid := 0x01 } := by
    have hdiv : t'.memRead (p + 3) ++ t'.memRead (p + 2) = div := by
      rw [h2, h3]
      exact le16_low_high div
    simp only [State.configAt, h0, h1, hdiv, h4]
  have hregs : t'.regs u = s.regs u := by rw [ht']; rfl
  obtain ⟨t2, t2', hexec2, -, -, hrun2, ht2', -⟩ := activateProgramsTheUnit prm t' p u (by rw [ht']; exact hb)
    (by rw [ht']; exact hst) (by rw [ht']; exact ht) (hregs ▸ (State.reservedZero_iff s).1 hres u) hp
    (by rw [hconfig]) (by rw [hconfig])
  have hregs2 : t2'.regs u = (t'.regs u).setUp (t'.configAt p) := by
    rw [ht2']
    exact PerUnit.get_set_same ..
  have hactive : t2'.active.get u = true := by
    rw [ht2']
    exact PerUnit.get_set_same ..
  rw [hconfig] at hregs2
  obtain ⟨hlow, hhigh⟩ := half_bytes_toNat div
  obtain ⟨hssel, hswrst⟩ := clockBits_fields clk hclk
  exact ⟨t, t', t2, t2', hexec, hrun, by rw [ht'], hexec2, hrun2, by rw [ht2'], hactive, by rw [hregs2]; exact hlow,
    by rw [hregs2]; exact hhigh, by rw [hregs2]; exact hssel, by rw [hregs2]; rfl, by rw [hregs2]; exact hswrst⟩

end Sys2Proof.Machine
end

section
/-! PROOFS. A running EXECUTE keeps its Descriptor and its unit (R56, R84): no step from S_START on writes `w.d`, `w.u`
or `w.c`, and none leads back to a place that does. -/

namespace Sys2Proof.Machine

/-- `t` follows `s` in the same EXECUTE or in S_IDLE after it: the records and the unit are those latched. -/
structure FollowsInExecute (s t : State) : Prop where
  place : t.st = .idle ∨ t.st.inExecute = true
  d : t.w.d = s.w.d
  u : t.w.u = s.w.u
  c : t.w.c = s.w.c

theorem FollowsInExecute.trans {s t r : State} (h : FollowsInExecute s t) (h' : FollowsInExecute t r) :
    FollowsInExecute s r :=
  ⟨h'.place, h'.d.trans h.d, h'.u.trans h.u, h'.c.trans h.c⟩

/-- A step of EXECUTE that is no register access moves a byte of the message or ends the command. -/
theorem State.internal_follows {s : State} (h : s.st = .idle ∨ s.st.inExecute = true) :
    FollowsInExecute s s.internal := by
  unfold State.internal
  cases hst : s.st
  case entryLoad | entryRaise | actLoad | act | actRaise | build =>
    simp [hst, EngineState.inExecute, EngineState.st] at h
  case txRaise | rxRaise | stop | stpRaise => exact ⟨.inl rfl, rfl, rfl, rfl⟩
  case txFetch => exact ⟨.inr rfl, rfl, rfl, rfl⟩
  case rxStore => exact ⟨.inr (rxLoop_inExecute _), rfl, rfl, rfl⟩
  all_goals exact ⟨h, rfl, rfl, rfl⟩

theorem engineStep_follows {p : Params} {s t : State} (hs : s.st = .idle ∨ s.st.inExecute = true)
    (h : engineStep p s = .next t) : FollowsInExecute s t := by
  rcases engineStep_cases h with ⟨i, a, x, hi, -, -, rfl⟩ | ⟨-, rfl⟩
  · have hin : s.st.inExecute = true :=
      hs.resolve_left fun hidle => State.issue_ne_idle hi (by rw [hidle]; rfl)
    have hplace := State.advance_inExecute (s := s.accessed i a x) p hin
    obtain ⟨w, st, he, hd, hc, hu⟩ := State.advance_eq (s.accessed i a x) p
    rw [he] at hplace ⊢
    exact ⟨.inr hplace, hd, hu, hc⟩
  · exact State.internal_follows hs

/-- The engine's step uses up no move to come. -/
theorem engineStep_turns {p : Params} {s t : State} (h : engineStep p s = .next t) : t.turns = s.turns := by
  rcases engineStep_cases h with ⟨i, a, x, -, -, -, rfl⟩ | ⟨hi, rfl⟩
  · obtain ⟨w, st, he, -, -, -⟩ := State.advance_eq (s.accessed i a x) p
    rw [he]
    rfl
  · exact (State.internal_move hi).turns

/-- With only moves of the engine and the bus agents to come, a step of EXECUTE stays in it or ends it. -/
theorem stepWith_follows {p : Params} {s t : State} (hq : s.quiet = true)
    (hs : s.st = .idle ∨ s.st.inExecute = true) (h : stepWith p s = .next t) :
    t.quiet = true ∧ FollowsInExecute s t := by
  rcases stepWith_next h with ⟨-, he⟩ | ⟨rest, ht, he⟩ | ⟨u, e, rest, ht, rfl⟩ | ⟨bytes, rest, i, first, ht, -⟩ |
    ⟨a, b, rest, ht, -⟩ | ⟨rest, ht, -⟩
  · exact ⟨by rw [State.quiet, engineStep_turns he]; exact hq, engineStep_follows hs he⟩
  · have hfollows := engineStep_follows (s := { s with turns := rest }) hs he
    rw [State.quiet, ht] at hq
    exact ⟨by rw [State.quiet, engineStep_turns he]; exact hq, hfollows.place, hfollows.d, hfollows.u, hfollows.c⟩
  · rw [State.quiet, ht] at hq
    rw [State.busEvent_eq]
    exact ⟨hq, hs, rfl, rfl, rfl⟩
  all_goals simp [State.quiet, ht, Turn.quiet] at hq

theorem runWith_follows {p : Params} {n : Nat} {s t : State} (hq : s.quiet = true)
    (hs : s.st = .idle ∨ s.st.inExecute = true) (h : runWith p n s = .next t) : FollowsInExecute s t := by
  induction n generalizing s with
  | zero =>
    cases h
    exact ⟨hs, rfl, rfl, rfl⟩
  | succ n ih =>
    cases hstep : stepWith p s with
    | next s' =>
      obtain ⟨hq', hfirst⟩ := stepWith_follows hq hs hstep
      exact hfirst.trans (ih hq' hfirst.place (runWith_succ p n hstep ▸ h))
    | fault f => simp [runWith, hstep] at h
    | refused r => simp [runWith, hstep] at h

/-- EXECUTE's state machine has none of the other commands' states. -/
theorem EngineState.st_of_inExecute {e : EngineState} (h : e.inExecute = true) :
    e.st ≠ .S_IDLE ∧ e.st ≠ .S_ENTRY ∧ e.st ≠ .S_ACT ∧ e.st ≠ .S_BUILD := by
  unfold EngineState.inExecute at h
  refine ⟨?_, ?_, ?_, ?_⟩ <;> intro he <;> simp [he] at h

/-- Settles O48, by induction on the steps. -/
theorem runningExecuteKeepsItsDescriptor : Obligations.RunningExecuteKeepsItsDescriptor := by
  intro prm s t n hq hst h
  have hstart : s.st.inExecute = true := by rw [hst]; rfl
  have hfollows := runWith_follows hq (.inr hstart) h
  exact ⟨hfollows.d, hfollows.u, hfollows.c, hfollows.place.imp_right EngineState.st_of_inExecute⟩

end Sys2Proof.Machine
end

section
/-! PROOFS. The twenty-two primitives one by one (R100 to R122): the access word, the effect, which is the answer the
laws of `exec` give, and the places of the engine's rules at which the primitive is issued. -/

namespace Sys2Proof.Machine

/-! ## Where each primitive is issued -/

/-- The places at which the engine issues an instruction, to the unit its command addresses, with the operand the place
gives it (R101 to R122); a command is issued at none. -/
def State.Issues (s : State) : Instr → Prop
  | .buildcfg _ _ _ _ | .activate _ | .buildtxn _ _ _ _ _ _ _ _ | .execute _ => False
  | .disableUnit u => s.w.u = u ∧ (s.st = .act .hold ∨ s.st = .act .holdAgain ∨ s.st = .txDisable ∨ s.st = .rxDisable)
  | .enableUnit u => s.w.u = u ∧ s.st = .act .release
  | .zeroCtl0 u => s.w.u = u ∧ s.st = .act .zero0
  | .zeroCtl1 u => s.w.u = u ∧ s.st = .act .zero1
  | .setModes u => s.w.u = u ∧ s.st = .act .modes
  | .selectClock u c => s.w.u = u ∧ s.st = .act .clock ∧ c = s.w.c.clockSource &&& 0x03
  | .routePins u => s.w.u = u ∧ s.st = .act .pins
  | .writeBaudLow u b => s.w.u = u ∧ s.st = .act .baudLow ∧ b = lowByte s.w.c.baudDivider
  | .writeBaudHigh u b => s.w.u = u ∧ s.st = .act .baudHigh ∧ b = highByte s.w.c.baudDivider
  | .writeSlaveAddr u a => s.w.u = u ∧ s.st = .startAddr ∧ a = lowByte s.w.d.slaveAddress
  | .setTR u => s.w.u = u ∧ s.st = .startTr
  | .clearTR u => s.w.u = u ∧ s.st = .prepTr
  | .assertStart u => s.w.u = u ∧ (s.st = .startStt ∨ s.st = .prepStt ∨ s.st = .txRestart ∨ s.st = .rxRestart)
  | .assertStop u =>
    s.w.u = u ∧ (s.st = .sttStop ∨ s.st = .txStop ∨ s.st = .rxStop ∨ (s.st = .stop ∧ s.w.stopIssued = false))
  | .readTxRdy u => s.w.u = u ∧ s.st = .txPoll
  | .readRxRdy u => s.w.u = u ∧ s.st = .rxPoll
  | .readNack u => s.w.u = u ∧ (s.st = .txNack ∨ s.st = .rxNack)
  | .readSttPending u => s.w.u = u ∧ s.st = .sttPoll
  | .readStpPending u => s.w.u = u ∧ s.st = .stpPoll
  | .clearTxRdy u => s.w.u = u ∧ (s.st = .txClear ∨ s.st = .prepClear)
  | .writeTx u b => s.w.u = u ∧ s.st = .txWrite ∧ b = s.ret
  | .readRx u => s.w.u = u ∧ s.st = .rxRead

theorem State.issues_of_issue {s : State} {i : Instr} (h : s.issue = some i) : s.Issues i := by
  unfold State.issue at h
  cases hst : s.st <;> simp only [hst, Option.some.injEq, reduceCtorEq] at h
  case act k =>
    subst h
    cases k <;> simp [ActStep.instr, State.Issues, hst]
  case stop =>
    split at h
    next => cases h
    next hstop =>
      cases h
      simpa [State.Issues, hst] using hstop
  all_goals
    subst h
    simp [State.Issues, hst]

theorem State.issue_of_issues {s : State} {i : Instr} (h : s.Issues i) : s.issue = some i := by
  cases i <;> simp only [State.Issues] at h
  case disableUnit | assertStart =>
    obtain ⟨rfl, hst | hst | hst | hst⟩ := h <;> simp only [State.issue, hst, ActStep.instr]
  case assertStop =>
    obtain ⟨rfl, hst | hst | hst | ⟨hst, hstop⟩⟩ := h
    case inr.inr.inr => simp [State.issue, hst, hstop]
    all_goals simp only [State.issue, hst]
  case readNack | clearTxRdy =>
    obtain ⟨rfl, hst | hst⟩ := h <;> simp only [State.issue, hst]
  case selectClock | writeBaudLow | writeBaudHigh | writeSlaveAddr | writeTx =>
    obtain ⟨rfl, hst, rfl⟩ := h
    simp only [State.issue, hst, ActStep.instr]
  all_goals
    obtain ⟨rfl, hst⟩ := h
    simp only [State.issue, hst, ActStep.instr]

/-- The engine issues a primitive at its places and nowhere else (R101 to R122). -/
theorem State.issue_iff (s : State) (i : Instr) : s.issue = some i ↔ s.Issues i :=
  ⟨State.issues_of_issue, State.issue_of_issues⟩

theorem lowByte_eq_extract (h : Half) : lowByte h = h.extractLsb' 0 8 := rfl

theorem highByte_eq_extract (h : Half) : highByte h = h.extractLsb' 8 8 := by
  apply BitVec.eq_of_toNat_eq
  rw [highByte, BitVec.toNat_setWidth, BitVec.toNat_ushiftRight, BitVec.extractLsb'_toNat]

/-! ## Every primitive (R100) -/

theorem activeAfter_of_ne {i : Instr} (b : Bool) (hd : ∀ u, i ≠ .disableUnit u) (he : ∀ u, i ≠ .enableUnit u) :
    activeAfter i b = b := by
  unfold activeAfter
  split
  · exact absurd rfl (hd _)
  · exact absurd rfl (he _)
  · rfl

/-- Settles O8: the accessed state differs in the access's unit and `ret` alone. -/
theorem primitiveNeverFailsAndActsOnOneUnit : Obligations.PrimitiveNeverFailsAndActsOnOneUnit := by
  intro i a s ha
  obtain ⟨x, hx⟩ := exec_accessed ha s
  refine ⟨s.accessed i a x, hx, rfl, rfl, rfl, rfl, rfl, fun _ => rfl, fun v hv => ?_, fun hd he => ?_⟩
  · exact ⟨s.accessed_regs_other i a x hv, s.accessed_active_other i a x hv⟩
  · simp [State.accessed, activeAfter_of_ne _ hd he]

/-! ## Unit enable and disable -/

theorem UnitRegs.held_swrst (r : UnitRegs) : { r with ctl1 := r.ctl1 ||| 0x01 : UnitRegs }.swrst = true := by
  simp [UnitRegs.swrst]

/-- A unit that is held already stays as it is (R101). -/
theorem UnitRegs.held_again {r : UnitRegs} (h : r.swrst = true) : { r with ctl1 := r.ctl1 ||| 0x01 } = r := by
  have hbit : ∀ x : Byte, x.getLsbD 0 = true → x ||| 0x01 = x := by decide
  rw [hbit r.ctl1 h]

/-- Settles O10: after the access the unit is held, so no event of its is enabled. -/
theorem disableUnitHoldsAndDeactivates : Obligations.DisableUnitHoldsAndDeactivates := by
  intro s u
  refine ⟨rfl, rfl, exec_disableUnit s u, fun t ht e => ?_, fun hr ha => ?_, s.issue_iff _⟩
  · cases (exec_disableUnit s u).symm.trans ht
    apply e.enabled_of_held
    rw [State.setActive_regs, State.setRegs_regs]
    exact (s.regs u).held_swrst
  · rw [exec_disableUnit, UnitRegs.held_again hr, State.setRegs_self, ← ha, State.setActive, PerUnit.set_get]

/-- Settles O11: the effect is the answer's, and the place is ACTIVATE's last. -/
theorem enableUnitReleasesAndActivates : Obligations.EnableUnitReleasesAndActivates :=
  fun s u => ⟨rfl, rfl, exec_enableUnit s u, s.issue_iff _⟩

/-! ## Control-bit writes of ACTIVATE -/

/-- The two bits SelectClock sets are the clock source's, as `SSEL` (R106). -/
theorem clockMask_eq_append (c : Byte) : (c &&& 0x03) <<< 6 = c.extractLsb' 0 2 ++ (0 : BitVec 6) := by
  revert c
  decide

section
variable {r : UnitRegs} (h : r.reservedZero = true)
include h

/-- `CTL0` has its reserved bits in its upper half. -/
theorem UnitRegs.ctl0_reserved : r.ctl0 &&& 0xF0 = 0x00 := (UnitRegs.reservedZero_iff r).1 h .CTL0

theorem UnitRegs.ctl1_reserved : r.ctl1 &&& 0x28 = 0x00 := (UnitRegs.reservedZero_iff r).1 h .CTL1

theorem UnitRegs.ctl0_modes : r.ctl0 ||| 0x0F = 0x0F := by
  have hbits : ∀ x : Byte, x &&& 0xF0 = 0x00 → x ||| 0x0F = 0x0F := by decide
  exact hbits _ (UnitRegs.ctl0_reserved h)

end

/-- Settles O12: each write leaves its value and the reserved bits, which are 0. -/
theorem controlBitWritesOfActivate : Obligations.ControlBitWritesOfActivate := by
  intro s u c hres
  refine ⟨⟨rfl, rfl, rfl, rfl, rfl, rfl, rfl, rfl⟩, ?_, ?_, ?_, ?_, ?_, s.issue_iff _, s.issue_iff _, s.issue_iff _,
    s.issue_iff _, s.issue_iff _⟩
  · rw [exec_zeroCtl0, UnitRegs.ctl0_reserved hres]
    rfl
  · rw [exec_zeroCtl1, UnitRegs.ctl1_reserved hres]
    rfl
  · rw [exec_setModes, UnitRegs.ctl0_modes hres]
    rfl
  · rw [exec_routePins, routed_psel hres]
    rfl
  · rw [exec_selectClock, clockMask_eq_append]
    rfl

/-! ## Baud divisor, slave address and direction -/

/-- Settles O13: the operands are the divider's two bytes. -/
theorem baudHalvesAreWrittenByActivate : Obligations.BaudHalvesAreWrittenByActivate := by
  intro s u b
  rw [← lowByte_eq_extract, ← highByte_eq_extract]
  exact ⟨rfl, rfl, exec_writeBaudLow s u b, exec_writeBaudHigh s u b, s.issue_iff _, s.issue_iff _⟩

/-- Settles O14: the address written is the low byte of the Descriptor's. -/
theorem slaveAddressAndDirectionWrites : Obligations.SlaveAddressAndDirectionWrites := by
  intro s u b
  rw [← lowByte_eq_extract]
  exact ⟨⟨rfl, rfl, rfl⟩, exec_writeSlaveAddr s u b, exec_setTR s u, exec_clearTR s u, s.issue_iff _, s.issue_iff _,
    s.issue_iff _⟩

/-! ## START and STOP -/

/-- Settles O15: AssertStart's data has bit 1, which clears `NACK` (R51), and AssertStop's has not. -/
theorem startAndStopRequests : Obligations.StartAndStopRequests :=
  fun s u => ⟨rfl, rfl, exec_assertStart s u, exec_assertStop s u, s.issue_iff _, s.issue_iff _⟩

/-! ## Status reads -/

section
variable (r : UnitRegs)

theorem UnitRegs.ifg_and_txrdy : r.ifg &&& 0x02 = if r.txrdy then 0x02 else 0 := BitVec.and_twoPow r.ifg 1

theorem UnitRegs.ifg_and_rxrdy : r.ifg &&& 0x01 = if r.rxrdy then 0x01 else 0 := BitVec.and_twoPow r.ifg 0

theorem UnitRegs.ifg_and_nack : r.ifg &&& 0x04 = if r.nack then 0x04 else 0 := BitVec.and_twoPow r.ifg 2

theorem UnitRegs.ctl1_and_txstt : r.ctl1 &&& 0x02 = if r.txstt then 0x02 else 0 := BitVec.and_twoPow r.ctl1 1

theorem UnitRegs.ctl1_and_txstp : r.ctl1 &&& 0x04 = if r.txstp then 0x04 else 0 := BitVec.and_twoPow r.ctl1 2

end

/-- Settles O16: the mask of a read has one bit, so what it returns is that flag. -/
theorem statusReadsReturnOneBit : Obligations.StatusReadsReturnOneBit := by
  intro s u
  rw [← UnitRegs.ifg_and_txrdy, ← UnitRegs.ifg_and_rxrdy, ← UnitRegs.ifg_and_nack, ← UnitRegs.ctl1_and_txstt,
    ← UnitRegs.ctl1_and_txstp]
  exact ⟨⟨rfl, rfl, rfl, rfl, rfl⟩, exec_readTxRdy s u, exec_readRxRdy s u, exec_readNack s u, exec_readSttPending s u,
    exec_readStpPending s u, s.issue_iff _, s.issue_iff _, s.issue_iff _, s.issue_iff _, s.issue_iff _⟩

/-! ## Data registers -/

/-- Settles O17: the answers clear the flag that R51 names for the access, ClearTxRdy the one it writes. -/
theorem dataRegisterAccessesClearTheirFlag : Obligations.DataRegisterAccessesClearTheirFlag :=
  fun s u b => ⟨⟨rfl, rfl, rfl⟩, exec_clearTxRdy s u, exec_writeTx s u b, exec_readRx s u, s.issue_iff _, s.issue_iff _,
    s.issue_iff _⟩

end Sys2Proof.Machine
end

section
/-! PROOFS. The rules of EXECUTE's states one by one (R131 to R146): each poll by the flag it reads, and the run of each
branch as the steps of its places in order. -/

namespace Sys2Proof.Machine

/-! ## A run with its trace -/

/-- `n` steps lead from `s` to `t` and issue the accesses of `tr`. -/
structure Runs (p : Params) (n : Nat) (s t : State) (tr : List (Instr × Byte)) : Prop where
  run : runWith p n s = .next t
  trace : traceWith p n s = tr

section
variable {p : Params} {n : Nat} {s s' t : State} {tr : List (Instr × Byte)}

theorem Runs.refl (p : Params) (s : State) : Runs p 0 s s [] := ⟨rfl, rfl⟩

/-- A register access first, with no move but the engine's to come. -/
theorem Runs.access {i : Instr} (ht : s.turns = []) (hi : s.issue = some i) (he : engineStep p s = .next s')
    (h : Runs p n s' t tr) : Runs p (n + 1) s t ((i, s'.ret) :: tr) := by
  have hstep := (stepWith_engine ht).trans he
  refine ⟨(runWith_succ p n hstep).trans h.run, ?_⟩
  rw [traceWith_access p n hstep ((State.pending_engine ht).trans hi), h.trace]

/-- A step first that is no register access. -/
theorem Runs.internal (ht : s.turns = []) (hi : s.issue = none) (he : engineStep p s = .next s')
    (h : Runs p n s' t tr) : Runs p (n + 1) s t tr := by
  have hstep := (stepWith_engine ht).trans he
  refine ⟨(runWith_succ p n hstep).trans h.run, ?_⟩
  rw [traceWith_internal p n hstep ((State.pending_engine ht).trans hi), h.trace]

/-- The accesses of a run, and its last state written in another way. -/
theorem Runs.outcome {t' : State} {is : List Instr} (h : Runs p n s t tr) (ht : t = t') (hi : tr.map Prod.fst = is) :
    runWith p n s = .next t' ∧ (traceWith p n s).map Prod.fst = is :=
  ⟨h.run.trans (congrArg _ ht), (congrArg _ h.trace).trans hi⟩

end

/-! ## The polls by the flag they read -/

/-- A count below nine stays below the limit (R135, R142). -/
theorem nackCount_succ_lt {c : Byte} (h : c.toNat + 1 < 10) : c + 1 < Config.maxNack := by
  unfold Config.maxNack
  bv_omega

section
variable (p : Params) {s : State}

theorem engineStep_txPoll_ready (h : s.st = .txPoll) (hr : (s.regs s.w.u).txrdy = true) :
    engineStep p s = .next ((s.setRet 0x02).setSt .txFetch) := by
  rw [engineStep_txPoll p h, UnitRegs.ifg_and_txrdy, hr]
  rfl

theorem engineStep_txPoll_waiting (h : s.st = .txPoll) (hr : (s.regs s.w.u).txrdy = false) :
    engineStep p s = .next ((s.setRet 0).setSt .txNack) := by
  rw [engineStep_txPoll p h, UnitRegs.ifg_and_txrdy, hr]
  rfl

theorem engineStep_txNack_none (h : s.st = .txNack) (hr : (s.regs s.w.u).nack = false) :
    engineStep p s = .next ((s.setRet 0).setSt .txPoll) := by
  rw [engineStep_txNack p h, UnitRegs.ifg_and_nack, hr]
  rfl

/-- The transmit index after a NACK: the policy keeps it or rewinds it (R136). -/
def rewoundIndex (k : NackPolicy) (i : Half) : Half := if k = .restartMessage then 0 else i

theorem engineStep_txNack_seen (h : s.st = .txNack) (hr : (s.regs s.w.u).nack = true) :
    engineStep p s = .next { s with
      ret := 0x04
      w := { s.w with nackCount := s.w.nackCount + 1, txIndex := rewoundIndex p.nackPolicy s.w.txIndex }
      st := if Config.maxNack ≤ s.w.nackCount + 1 then .txStop else .txRestart } := by
  rw [engineStep_txNack p h, UnitRegs.ifg_and_nack, hr]
  cases hp : p.nackPolicy <;> simp [State.afterTxNack, hp, rewoundIndex, State.setRet]

theorem engineStep_txNack_retry (h : s.st = .txNack) (hr : (s.regs s.w.u).nack = true)
    (hc : s.w.nackCount.toNat + 1 < 10) :
    engineStep p s = .next { s with
      ret := 0x04
      w := { s.w with nackCount := s.w.nackCount + 1, txIndex := rewoundIndex p.nackPolicy s.w.txIndex }
      st := .txRestart } := by
  rw [engineStep_txNack_seen p h hr, if_neg (BitVec.not_le.2 (nackCount_succ_lt hc))]

theorem engineStep_txNack_limit (h : s.st = .txNack) (hr : (s.regs s.w.u).nack = true) (hc : s.w.nackCount = 9) :
    engineStep p s = .next { s with
      ret := 0x04
      w := { s.w with nackCount := 10, txIndex := rewoundIndex p.nackPolicy s.w.txIndex }
      st := .txStop } := by
  rw [engineStep_txNack_seen p h hr, hc]
  rfl

theorem engineStep_rxPoll_ready (h : s.st = .rxPoll) (hr : (s.regs s.w.u).rxrdy = true) :
    engineStep p s = .next ((s.setRet 0x01).setSt .rxRead) := by
  rw [engineStep_rxPoll p h, UnitRegs.ifg_and_rxrdy, hr]
  rfl

theorem engineStep_rxPoll_waiting (h : s.st = .rxPoll) (hr : (s.regs s.w.u).rxrdy = false) :
    engineStep p s = .next ((s.setRet 0).setSt (if p.rxNackCheck then .rxNack else .rxPoll)) := by
  rw [engineStep_rxPoll p h, UnitRegs.ifg_and_rxrdy, hr]
  rfl

theorem engineStep_rxNack_none (h : s.st = .rxNack) (hr : (s.regs s.w.u).nack = false) :
    engineStep p s = .next ((s.setRet 0).setSt .rxPoll) := by
  rw [engineStep_rxNack p h, UnitRegs.ifg_and_nack, hr]
  rfl

theorem engineStep_rxNack_retry (h : s.st = .rxNack) (hr : (s.regs s.w.u).nack = true)
    (hc : s.w.nackCount.toNat + 1 < 10) :
    engineStep p s = .next { s with
      ret := 0x04, w := { s.w with nackCount := s.w.nackCount + 1 }, st := .rxRestart } := by
  rw [engineStep_rxNack p h, UnitRegs.ifg_and_nack, hr]
  simpa [State.afterRxNack, State.setRet] using nackCount_succ_lt hc

theorem engineStep_rxNack_limit (h : s.st = .rxNack) (hr : (s.regs s.w.u).nack = true) (hc : s.w.nackCount = 9) :
    engineStep p s = .next { s with ret := 0x04, w := { s.w with nackCount := 10 }, st := .rxStop } := by
  rw [engineStep_rxNack p h, UnitRegs.ifg_and_nack, hr]
  simp [State.afterRxNack, State.setRet, hc, Config.maxNack]

theorem engineStep_sttPoll_pending (h : s.st = .sttPoll) (hr : (s.regs s.w.u).txstt = true) :
    engineStep p s = .next (s.setRet 0x02) := by
  rw [engineStep_sttPoll p h, UnitRegs.ctl1_and_txstt, hr]
  simp [State.setSt, State.setRet, h]

theorem engineStep_sttPoll_done (h : s.st = .sttPoll) (hr : (s.regs s.w.u).txstt = false) :
    engineStep p s = .next ((s.setRet 0).setSt .sttStop) := by
  rw [engineStep_sttPoll p h, UnitRegs.ctl1_and_txstt, hr]
  rfl

theorem engineStep_stpPoll_pending (h : s.st = .stpPoll) (hr : (s.regs s.w.u).txstp = true) :
    engineStep p s = .next (s.setRet 0x04) := by
  rw [engineStep_stpPoll p h, UnitRegs.ctl1_and_txstp, hr]
  simp [State.setSt, State.setRet, h]

theorem engineStep_stpPoll_done (h : s.st = .stpPoll) (hr : (s.regs s.w.u).txstp = false) :
    engineStep p s = .next ((s.setRet 0).setSt .stpRaise) := by
  rw [engineStep_stpPoll p h, UnitRegs.ctl1_and_txstp, hr]
  rfl

end

theorem afterTransmit_eq (w : Working) : afterTransmit w = if w.d.direction = 1 then .prepTr else .stop := by
  simp only [afterTransmit, isReceive, beq_iff_eq]

theorem rxLoop_zero {w : Working} (h : w.rxIndex = 0) : rxLoop w = if w.d.respLen = 0 then .stop else .rxPoll := by
  rw [rxLoop, h]
  split
  next hlt => exact (if_neg fun h0 => by simp [h0] at hlt).symm
  next hge => exact (if_pos (BitVec.le_zero_iff.1 (BitVec.not_lt.1 hge))).symm

/-! ## S_START (R131) -/

/-- Settles O39: the three accesses of S_START, or the first alone. -/
theorem startWritesTheAddressAndOpensTheTransfer : Obligations.StartWritesTheAddressAndOpensTheTransfer := by
  intro prm s ht hst u r a
  have hissue : s.issue = some (.writeSlaveAddr u a) := State.issue_of_issues ⟨rfl, hst, rfl⟩
  have haddr := engineStep_startAddr prm hst
  refine ⟨fun hlen => ?_, fun hlen => ?_⟩
  · rw [if_pos (show 0 < s.w.d.outLen from hlen)] at haddr
    have h := Runs.access ht hissue haddr <| .access ht rfl (engineStep_startTr prm rfl) <|
      .access ht rfl (engineStep_startStt prm rfl) <| .refl ..
    refine h.outcome ?_ rfl
    simp [State.setRegs, State.setSt, State.regs, BitVec.or_assoc, lowByte_eq_extract, nackMask, u, r, a]
  · rw [if_neg (by simp [hlen]), afterTransmit_eq] at haddr
    exact (Runs.access ht hissue haddr <| .refl ..).outcome rfl rfl

/-! ## S_TX (R133 to R137) -/

/-- Settles O40: the poll, the byte from host memory and its write, and after the last byte the flag's clearing. -/
theorem transmitReadyWritesTheNextByte : Obligations.TransmitReadyWritesTheNextByte := by
  intro prm s ht hst hready u r b s'
  have hpoll := engineStep_txPoll_ready prm hst hready
  have hissue : s.issue = some (.readTxRdy u) := State.issue_of_issues ⟨rfl, hst⟩
  have hwrite : engineStep prm (((s.setRet 0x02).setSt .txFetch).fetchByte) = .next { s' with
      st := if s.w.txIndex + 1 = s.w.d.outLen then .txClear else .txPoll } := engineStep_txWrite prm rfl
  refine ⟨fun hmore => ?_, fun hlast => ?_⟩
  · rw [if_neg hmore] at hwrite
    exact (Runs.access ht hissue hpoll <| .internal ht rfl (engineStep_txFetch prm rfl) <|
      .access ht rfl hwrite <| .refl ..).outcome rfl rfl
  · rw [if_pos hlast] at hwrite
    have h := Runs.access ht hissue hpoll <| .internal ht rfl (engineStep_txFetch prm rfl) <|
      .access ht rfl hwrite <| .access ht rfl (engineStep_txClear prm rfl) <| .refl ..
    refine h.outcome ?_ rfl
    rw [afterTransmit_eq]
    simp [State.setRegs, State.setSt, State.regs, s', u, BitVec.and_assoc, txrdyMask]

/-- Settles O41: the two polls, and after a NACK below the limit the START. -/
theorem transmitNackCountsAndRestarts : Obligations.TransmitNackCountsAndRestarts := by
  intro prm s ht hst hready u r w'
  have hissue : s.issue = some (.readTxRdy u) := State.issue_of_issues ⟨rfl, hst⟩
  have hpoll := engineStep_txPoll_waiting prm hst hready
  refine ⟨fun hnack => ?_, fun hnack hcount => ?_⟩
  · refine (Runs.access ht hissue hpoll <| .access ht rfl (engineStep_txNack_none prm rfl hnack) <|
      .refl ..).outcome ?_ rfl
    simp [State.setSt, State.setRet, hst]
  · refine (Runs.access ht hissue hpoll <| .access ht rfl (engineStep_txNack_retry prm rfl hnack hcount) <|
      .access ht rfl (engineStep_txRestart prm rfl) <| .refl ..).outcome ?_ rfl
    simp [State.setRegs, State.setSt, State.setRet, State.regs, hst, nackMask, rewoundIndex, u, r, w']

/-- Settles O42: the two polls of S_TX or S_RX, and the abort's STOP, DisableUnit and `raise`. -/
theorem tenthNackAborts : Obligations.TenthNackAborts := by
  intro prm s ht hcount hnack u r s'
  refine ⟨fun hst hready => ?_, fun hst hready hcheck => ?_⟩
  · refine (Runs.access ht (State.issue_of_issues (i := .readTxRdy u) ⟨rfl, hst⟩)
        (engineStep_txPoll_waiting prm hst hready) <|
      .access ht rfl (engineStep_txNack_limit prm rfl hnack hcount) <| .access ht rfl (engineStep_txStop prm rfl) <|
      .access ht rfl (engineStep_txDisable prm rfl) <| .internal ht rfl (engineStep_txRaise prm rfl) <|
      .refl ..).outcome ?_ rfl
    simp [State.setRegs, State.setSt, State.setRet, State.setActive, State.raise, State.regs, BitVec.or_assoc,
      rewoundIndex, ErrorCode.byte, u, r, s']
  · have hpoll := engineStep_rxPoll_waiting prm hst hready
    rw [hcheck] at hpoll
    refine (Runs.access ht (State.issue_of_issues (i := .readRxRdy u) ⟨rfl, hst⟩) hpoll <|
      .access ht rfl (engineStep_rxNack_limit prm rfl hnack hcount) <| .access ht rfl (engineStep_rxStop prm rfl) <|
      .access ht rfl (engineStep_rxDisable prm rfl) <| .internal ht rfl (engineStep_rxRaise prm rfl) <|
      .refl ..).outcome ?_ rfl
    simp [State.setRegs, State.setSt, State.setRet, State.setActive, State.raise, State.regs, BitVec.or_assoc,
      ErrorCode.byte, u, r, s']

/-! ## S_PREP_RX and S_WAIT_STT (R138, R139) -/

/-- Settles O43: the three accesses of S_PREP_RX. -/
theorem prepareReceiveTurnsTheBusAround : Obligations.PrepareReceiveTurnsTheBusAround := by
  intro prm s ht hst hrx u r
  refine (Runs.access ht (State.issue_of_issues (i := .clearTR u) ⟨rfl, hst⟩) (engineStep_prepTr prm hst) <|
      .access ht rfl (engineStep_prepClear prm rfl) <| .access ht rfl (engineStep_prepStt prm rfl) <|
      .refl ..).outcome ?_ rfl
  simp [State.setRegs, State.setSt, State.regs, BitVec.and_assoc, rxLoop_zero hrx, txrdyMask, nackMask, u, r]

/-- Settles O44: the poll alone, or the poll that reads 0 and then the STOP. -/
theorem singleByteReadStopsRightAfterStart : Obligations.SingleByteReadStopsRightAfterStart := by
  intro prm s ht hst u r
  have hissue : s.issue = some (.readSttPending u) := State.issue_of_issues ⟨rfl, hst⟩
  refine ⟨fun hpending => ?_, fun hdone hlt => ?_⟩
  · have h := Runs.access ht hissue (engineStep_sttPoll_pending prm hst hpending) <| .refl ..
    exact ⟨h.run, h.trace⟩
  · refine (Runs.access ht hissue (engineStep_sttPoll_done prm hst hdone) <|
      .access ht rfl (engineStep_sttStop prm rfl) <| .refl ..).outcome ?_ rfl
    simp [State.afterEarlyStop, rxLoop, hlt, State.setRegs, State.setSt, State.setRet, State.regs, u, r]

/-! ## S_RX (R140 to R143) -/

/-- Settles O45: the poll, the received byte's read and its store. -/
theorem receiveReadyStoresTheByte : Obligations.ReceiveReadyStoresTheByte := by
  intro prm s ht hst hready hwf u r a
  have h := Runs.access ht (State.issue_of_issues (i := .readRxRdy u) ⟨rfl, hst⟩)
        (engineStep_rxPoll_ready prm hst hready) <|
      .access ht rfl (engineStep_rxRead prm rfl) <| .internal ht rfl (engineStep_rxStore prm rfl) <| .refl ..
  refine ⟨_, h.run, rfl, State.memRead_memWrite_same _ _ hwf, fun x hx => State.memRead_memWrite_other _ hwf hx,
    congrArg _ h.trace⟩

/-- Settles O46: the poll alone, the two polls, or the two polls and the START. -/
theorem receiveNackCountsAndRestarts : Obligations.ReceiveNackCountsAndRestarts := by
  intro prm s ht hst hready u r
  have hissue : s.issue = some (.readRxRdy u) := State.issue_of_issues ⟨rfl, hst⟩
  have hpoll := engineStep_rxPoll_waiting prm hst hready
  refine ⟨fun hcheck => ?_, fun hcheck hnack => ?_, fun hcheck hnack hcount => ?_⟩ <;> rw [hcheck] at hpoll
  · have h := Runs.access ht hissue hpoll <| .refl ..
    refine ⟨h.run.trans (congrArg _ ?_), h.trace⟩
    simp [State.setSt, State.setRet, hst]
  · refine (Runs.access ht hissue hpoll <| .access ht rfl (engineStep_rxNack_none prm rfl hnack) <|
      .refl ..).outcome ?_ rfl
    simp [State.setSt, State.setRet, hst]
  · refine (Runs.access ht hissue hpoll <| .access ht rfl (engineStep_rxNack_retry prm rfl hnack hcount) <|
      .access ht rfl (engineStep_rxRestart prm rfl) <| .refl ..).outcome ?_ rfl
    simp [State.setRegs, State.setSt, State.setRet, State.regs, hst, nackMask, u, r]

/-! ## S_STOP and S_WAIT_STP (R144 to R146) -/

/-- Settles O47: the STOP and its wait, each with the `raise` that it may lead to. -/
theorem stopIsRequestedOnceAndAwaited : Obligations.StopIsRequestedOnceAndAwaited := by
  intro prm s ht u r
  refine ⟨fun hst hissued => ?_, fun hst hissued => ?_, fun hst hpending => ?_, fun hst hdone => ?_⟩
  · have hissue : s.issue = none := by simp [State.issue, hst, hissued]
    have h := Runs.internal ht hissue (engineStep_stopDone prm hst hissued) <| .refl ..
    exact ⟨h.run, h.trace⟩
  · have hissue : s.issue = some (.assertStop u) := State.issue_of_issues ⟨rfl, .inr (.inr (.inr ⟨hst, hissued⟩))⟩
    exact (Runs.access ht hissue (engineStep_stop prm hst hissued) <| .refl ..).outcome rfl rfl
  · exact (Runs.access ht (State.issue_of_issues (i := .readStpPending u) ⟨rfl, hst⟩)
      (engineStep_stpPoll_pending prm hst hpending) <| .refl ..).outcome rfl rfl
  · exact (Runs.access ht (State.issue_of_issues (i := .readStpPending u) ⟨rfl, hst⟩)
      (engineStep_stpPoll_done prm hst hdone) <|
      .internal ht rfl (engineStep_stpRaise prm rfl) <| .refl ..).outcome rfl rfl

/-! ## No event (R134, R150) -/

/-- Without a flag S_TX goes between its two polls and changes nothing but the value returned. -/
theorem runWith_polling (prm : Params) (n : Nat) {s : State} (ht : s.turns = []) (hst : s.st = .txPoll ∨ s.st = .txNack)
    (hready : (s.regs s.w.u).txrdy = false) (hnack : (s.regs s.w.u).nack = false) :
    ∃ st x, runWith prm n s = .next { s with st := st, ret := x } ∧ (st = .txPoll ∨ st = .txNack) := by
  induction n generalizing s with
  | zero => exact ⟨s.st, s.ret, rfl, hst⟩
  | succ n ih =>
    rcases hst with hst | hst
    · rw [runWith_succ prm n ((stepWith_engine ht).trans (engineStep_txPoll_waiting prm hst hready))]
      exact ih (s := (s.setRet 0).setSt .txNack) ht (.inr rfl) hready hnack
    · rw [runWith_succ prm n ((stepWith_engine ht).trans (engineStep_txNack_none prm hst hnack))]
      exact ih (s := (s.setRet 0).setSt .txPoll) ht (.inl rfl) hready hnack

/-- Settles O56: the two polls of S_TX are all that runs. -/
theorem transmitPollsForEverWithoutEvents : Obligations.TransmitPollsForEverWithoutEvents := by
  intro prm s n ht hst hbusy hready hnack
  obtain ⟨st, x, hrun, hplace⟩ := runWith_polling prm n ht (.inl hst) hready hnack
  have hS : st.st = .S_TX := by rcases hplace with rfl | rfl <;> rfl
  exact ⟨_, hrun, hbusy, hS, rfl, rfl, rfl, rfl, rfl⟩

end Sys2Proof.Machine
end

section
/-! PROOFS. What an EXECUTE has done by the time it returns (R149), whatever the bus agents do: its history as the
engine's steps alone, and invariants of the history. -/

namespace Sys2Proof.Machine

/-! ## The history of an EXECUTE -/

/-- An EXECUTE that started in `s₀` has issued the accesses of `tr` and is in `s`, not yet returned. The moves of the bus
agents are in it only by what they leave of the units' registers. -/
inductive History (p : Params) (s₀ : State) : List (Instr × Byte) → State → Prop
  | start : History p s₀ [] s₀
  | access {tr : List (Instr × Byte)} {s : State} {i : Instr} {a : Access} (x : Byte) (h : History p s₀ tr s)
    (hi : s.issue = some i) (hu : a.unit = s.w.u) : History p s₀ (tr ++ [(i, x)]) ((s.accessed i a x).advance p)
  | fetch {tr : List (Instr × Byte)} {s : State} (h : History p s₀ tr s) (hst : s.st = .txFetch) :
    History p s₀ tr s.fetchByte
  | store {tr : List (Instr × Byte)} {s : State} (h : History p s₀ tr s) (hst : s.st = .rxStore) :
    History p s₀ tr s.storeByte
  | others {tr : List (Instr × Byte)} {s : State} (h : History p s₀ tr s) (units : PerUnit UnitRegs)
    (turns : List Turn) : History p s₀ tr { s with units := units, turns := turns }

/-- The places from which EXECUTE's state machine ends, with the code it raises (R137, R144, R146). -/
inductive Raising (s : State) : ErrorCode → Prop
  | transmitLimit (h : s.st = .txRaise) : Raising s .nackLimitReached
  | receiveLimit (h : s.st = .rxRaise) : Raising s .nackLimitReached
  | stopped (h : s.st = .stop) (hs : s.w.stopIssued = true) : Raising s .noError
  | awaited (h : s.st = .stpRaise) : Raising s .noError

/-- `t` is a state in S_IDLE after `s` raised `c`. -/
structure RaisedFrom (s t : State) (c : ErrorCode) : Prop where
  raising : Raising s c
  st : t.st = .idle
  result : t.result = c.byte
  mem : t.mem = s.mem
  active : t.active = s.active

/-- An EXECUTE that returned `NoError` ended in S_STOP with the STOP issued, or in S_WAIT_STP (R144, R146). -/
theorem RaisedFrom.noError {s t : State} {c : ErrorCode} (h : RaisedFrom s t c) (hr : t.result = 0) :
    (s.st = .stop ∧ s.w.stopIssued = true) ∨ s.st = .stpRaise := by
  have hc := h.result.symm.trans hr
  cases h.raising with
  | transmitLimit | receiveLimit => cases hc
  | stopped hst hs => exact .inl ⟨hst, hs⟩
  | awaited hst => exact .inr hst

/-- An EXECUTE that returned `NackLimitReached` ended in the abort (R137). -/
theorem RaisedFrom.nackLimit {s t : State} {c : ErrorCode} (h : RaisedFrom s t c) (hr : t.result = 4) :
    s.st = .txRaise ∨ s.st = .rxRaise := by
  have hc := h.result.symm.trans hr
  cases h.raising with
  | transmitLimit hst => exact .inl hst
  | receiveLimit hst => exact .inr hst
  | stopped | awaited => cases hc

/-- The access of a step from `s` to `t`, with the value it returned. -/
def stepTrace (s t : State) : List (Instr × Byte) := (s.pending.map fun i => (i, t.ret)).toList

theorem traceWith_succ {p : Params} {s t : State} (k : Nat) (h : stepWith p s = .next t) :
    traceWith p (k + 1) s = stepTrace s t ++ traceWith p k t := by
  cases hp : s.pending with
  | none => rw [traceWith_internal p k h hp, stepTrace, hp]; rfl
  | some i => rw [traceWith_access p k h hp, stepTrace, hp]; rfl

section
variable {p : Params} {s₀ s t : State} {tr : List (Instr × Byte)}

/-- A running EXECUTE is in its state machine, with the Descriptor and the unit it started with (R56). -/
theorem History.follows (h : History p s₀ tr s) (hin : s₀.st.inExecute = true) :
    s.st.inExecute = true ∧ s.w.d = s₀.w.d ∧ s.w.u = s₀.w.u := by
  induction h with
  | start => exact ⟨hin, rfl, rfl⟩
  | @access tr s i a x h hi hu ih =>
    have hplace := State.advance_inExecute (s := s.accessed i a x) p ih.1
    obtain ⟨w, st, he, hd, -, hwu⟩ := State.advance_eq (s.accessed i a x) p
    rw [he] at hplace ⊢
    exact ⟨hplace, hd.trans ih.2.1, hwu.trans ih.2.2⟩
  | fetch h hst ih => exact ⟨rfl, ih.2⟩
  | store h hst ih => exact ⟨rxLoop_inExecute _, ih.2⟩
  | others h units turns ih => exact ih

/-- A running EXECUTE's working registers agree with its place. -/
theorem History.placeOk (h : History p s₀ tr s) (hok : s₀.placeOk = true) : s.placeOk = true := by
  induction h with
  | start => exact hok
  | @access tr s i a x h hi hu ih =>
    obtain ⟨-, -, hactive, -, hwu⟩ := State.advance_frame (s.accessed i a x) p
    rw [State.placeOk_iff, hactive, hwu, State.accessed_w, ← hu, State.accessed_active, hu]
    exact State.accessed_advance_holds a x p hi ((State.placeOk_iff s).1 ih)
  | @fetch tr s h hst ih =>
    have hok := State.internal_placeOk ih
    rwa [State.internal, hst] at hok
  | @store tr s h hst ih =>
    have hok := State.internal_placeOk ih
    rwa [State.internal, hst] at hok
  | others h units turns ih => exact ih

end

/-- An EXECUTE is running, or has returned. -/
def RunningOrReturned (p : Params) (s₀ : State) (tr : List (Instr × Byte)) (t : State) : Prop :=
  History p s₀ tr t ∨ ∃ s c, History p s₀ tr s ∧ RaisedFrom s t c

theorem State.advance_ret (s : State) (p : Params) : (s.advance p).ret = s.ret := by
  obtain ⟨w, st, h, -, -, -⟩ := State.advance_eq s p
  rw [h]

theorem engineStep_history {p : Params} {s₀ s t : State} {tr : List (Instr × Byte)} (h : History p s₀ tr s)
    (hin : s.st.inExecute = true) (he : engineStep p s = .next t) :
    RunningOrReturned p s₀ (tr ++ (s.issue.map fun i => (i, t.ret)).toList) t := by
  rcases engineStep_cases he with ⟨i, a, x, hi, -, hu, rfl⟩ | ⟨hi, rfl⟩
  · rw [hi, State.advance_ret]
    exact .inl (.access x h hi hu)
  · rw [hi]
    simp only [Option.map_none, Option.toList_none, List.append_nil]
    unfold State.issue at hi
    unfold State.internal
    cases hst : s.st <;> simp only [hst, reduceCtorEq] at hi hin ⊢
    case txFetch => exact .inl (.fetch h hst)
    case rxStore => exact .inl (.store h hst)
    case txRaise => exact .inr ⟨s, _, h, .transmitLimit hst, rfl, rfl, rfl, rfl⟩
    case rxRaise => exact .inr ⟨s, _, h, .receiveLimit hst, rfl, rfl, rfl, rfl⟩
    case stpRaise => exact .inr ⟨s, _, h, .awaited hst, rfl, rfl, rfl, rfl⟩
    case stop =>
      have hs : s.w.stopIssued = true := by simpa using hi
      exact .inr ⟨s, _, h, .stopped hst hs, rfl, rfl, rfl, rfl⟩
    case idle | entryLoad | entryRaise | actLoad | actRaise | build => cases hin

section
variable {p : Params} {s₀ s t : State} {tr : List (Instr × Byte)} (hin : s₀.st.inExecute = true)
include hin

theorem RunningOrReturned.place (h : RunningOrReturned p s₀ tr s) : s.st = .idle ∨ s.st.inExecute = true := by
  rcases h with h | ⟨s', c, -, hr⟩
  · exact .inr (h.follows hin).1
  · exact .inl hr.st

/-- A step of the engine or of a bus agent carries the history on. -/
theorem stepWith_history (hq : s.quiet = true) (h : RunningOrReturned p s₀ tr s) (hstep : stepWith p s = .next t) :
    RunningOrReturned p s₀ (tr ++ stepTrace s t) t := by
  have hengine : ∀ rest, s.pending = s.issue → engineStep p { s with turns := rest } = .next t →
      RunningOrReturned p s₀ (tr ++ stepTrace s t) t := by
    intro rest hp he
    rw [stepTrace, hp]
    rcases h with h | ⟨s', c, h, hr⟩
    · exact engineStep_history (s := { s with turns := rest }) (h.others s.units rest) (h.follows hin).1 he
    · have hidle := engineStep_idle p (s := { s with turns := rest }) hr.st
      obtain rfl := Host.Outcome.next.inj (hidle.symm.trans he)
      have hissue : s.issue = none := by simp [State.issue, hr.st]
      rw [hissue]
      simp only [Option.map_none, Option.toList_none, List.append_nil]
      exact .inr ⟨s', c, h, hr.raising, hr.st, hr.result, hr.mem, hr.active⟩
  rcases stepWith_next hstep with ⟨ht, he⟩ | ⟨rest, ht, he⟩ | ⟨u, e, rest, ht, rfl⟩ |
    ⟨bytes, rest, i, first, ht, -⟩ | ⟨a, b, rest, ht, -⟩ | ⟨rest, ht, -⟩
  · exact hengine s.turns (State.pending_engine ht) he
  · exact hengine rest (by simp only [State.pending, ht]) he
  · have hp : stepTrace s ({ s with turns := rest }.busEvent u e) = [] := by simp [stepTrace, State.pending, ht]
    rw [hp, List.append_nil, State.busEvent_eq]
    rcases h with h | ⟨s', c, h, hr⟩
    · exact .inl (h.others _ _)
    · exact .inr ⟨s', c, h, hr.raising, hr.st, hr.result, hr.mem, hr.active⟩
  all_goals simp [State.quiet, ht, Turn.quiet] at hq

theorem runWith_history {n : Nat} (hq : s.quiet = true) (h : RunningOrReturned p s₀ tr s)
    (hrun : runWith p n s = .next t) : RunningOrReturned p s₀ (tr ++ traceWith p n s) t := by
  induction n generalizing s tr with
  | zero =>
    cases hrun
    rw [traceWith, List.append_nil]
    exact h
  | succ n ih =>
    cases hstep : stepWith p s with
    | next s' =>
      rw [traceWith_succ n hstep, ← List.append_assoc]
      have hq' := (stepWith_follows hq (h.place hin) hstep).1
      exact ih hq' (stepWith_history hin hq h hstep) (runWith_succ p n hstep ▸ hrun)
    | fault f => simp [runWith, hstep] at hrun
    | refused r => simp [runWith, hstep] at hrun

end

/-- An EXECUTE that has returned has a history up to the place from which it raised its code. -/
theorem returned_history {p : Params} {n : Nat} {s t : State} (hq : s.quiet = true) (hst : s.st = .startAddr)
    (hrun : runWith p n s = .next t) (hidle : t.st = .idle) :
    ∃ s' c, History p s (traceWith p n s) s' ∧ RaisedFrom s' t c := by
  have hin : s.st.inExecute = true := by rw [hst]; rfl
  rcases runWith_history hin hq (.inl .start) hrun with h | h
  · have hplace := (h.follows hin).1
    rw [hidle] at hplace
    cases hplace
  · exact h

end Sys2Proof.Machine
end

section
/-! PROOFS. What an access of EXECUTE makes of the place and the working registers, said once: the accesses that R149
counts one by one, all others together. -/

namespace Sys2Proof.Machine

/-! ## Accesses and places -/

/-- An access that R149 does not count. -/
structure Uncounted (y : Instr × Byte) : Prop where
  start : isAssertStart y = false
  stop : isAssertStop y = false
  disable : isDisableUnit y = false
  sttDone : isSttDone y = false
  nack : isNackSeen y = false
  write : isWriteTx y = false
  written : writtenByte y = none
  received : receivedByte y = none

/-- Where the accesses lead that R149 does not count: the writes of the address, the direction and the flag, and the
polls (R131 to R145). -/
inductive PlainMove (d : Descriptor) : EngineState → EngineState → Prop
  | message (h : 0 < d.outLen) : PlainMove d .startAddr .startTr
  | receiveOnly (h : d.outLen = 0) (hd : d.direction = 1) : PlainMove d .startAddr .prepTr
  | nothing (h : d.outLen = 0) (hd : d.direction ≠ 1) : PlainMove d .startAddr .stop
  | direction : PlainMove d .startTr .startStt
  | txReady : PlainMove d .txPoll .txFetch
  | txWaiting : PlainMove d .txPoll .txNack
  | txNoNack : PlainMove d .txNack .txPoll
  | thenReceive (hd : d.direction = 1) : PlainMove d .txClear .prepTr
  | thenStop (hd : d.direction ≠ 1) : PlainMove d .txClear .stop
  | turned : PlainMove d .prepTr .prepClear
  | cleared : PlainMove d .prepClear .prepStt
  | sttPending : PlainMove d .sttPoll .sttPoll
  | rxReady : PlainMove d .rxPoll .rxRead
  | rxWaiting : PlainMove d .rxPoll .rxPoll
  | rxAsks : PlainMove d .rxPoll .rxNack
  | rxNoNack : PlainMove d .rxNack .rxPoll
  | stpPending : PlainMove d .stpPoll .stpPoll
  | stpDone : PlainMove d .stpPoll .stpRaise

/-- Where AssertStart leads: it opens a phase, or it answers a NACK (R131, R135, R138, R142). -/
inductive StartMove (d : Descriptor) : EngineState → EngineState → Prop
  | transmit : StartMove d .startStt .txPoll
  | receiveOne (h : d.respLen = 1) : StartMove d .prepStt .sttPoll
  | receive : StartMove d .prepStt .rxPoll
  | receiveNone : StartMove d .prepStt .stop
  | txRetry : StartMove d .txRestart .txPoll
  | rxRetry : StartMove d .rxRestart .rxPoll

/-- What an access of EXECUTE, with the value it returned, makes of the place and the working registers. -/
inductive AccessMove (p : Params) (s t : State) : Instr × Byte → Prop
  | plain {y : Instr × Byte} (hy : Uncounted y) (hm : PlainMove s.w.d s.st t.st) (hw : t.w = s.w) : AccessMove p s t y
  | start (x : Byte) (hm : StartMove s.w.d s.st t.st) (hw : t.w = s.w) : AccessMove p s t (.assertStart s.w.u, x)
  | write (x : Byte) (hst : s.st = .txWrite) (hst' : t.st = .txPoll ∨ t.st = .txClear)
    (hw : t.w = { s.w with nackCount := 0, txIndex := s.w.txIndex + 1 }) : AccessMove p s t (.writeTx s.w.u s.ret, x)
  | txNack (x : Byte) (hx : x ≠ 0) (hst : s.st = .txNack) (hst' : t.st = .txRestart ∨ t.st = .txStop)
    (hw : t.w = { s.w with nackCount := s.w.nackCount + 1, txIndex := rewoundIndex p.nackPolicy s.w.txIndex }) :
    AccessMove p s t (.readNack s.w.u, x)
  | rxNack (x : Byte) (hx : x ≠ 0) (hst : s.st = .rxNack) (hst' : t.st = .rxRestart ∨ t.st = .rxStop)
    (hw : t.w = { s.w with nackCount := s.w.nackCount + 1 }) : AccessMove p s t (.readNack s.w.u, x)
  | sttDone (hst : s.st = .sttPoll) (hst' : t.st = .sttStop) (hw : t.w = s.w) :
    AccessMove p s t (.readSttPending s.w.u, 0)
  | earlyStop (x : Byte) (hst : s.st = .sttStop) (hst' : t.st = .rxPoll) (hw : t.w = { s.w with stopIssued := true }) :
    AccessMove p s t (.assertStop s.w.u, x)
  | stop (x : Byte) (hst : s.st = .stop) (hs : s.w.stopIssued = false) (hst' : t.st = .stpPoll) (hw : t.w = s.w) :
    AccessMove p s t (.assertStop s.w.u, x)
  | abortStop (x : Byte) (hst : (s.st = .txStop ∧ t.st = .txDisable) ∨ (s.st = .rxStop ∧ t.st = .rxDisable))
    (hw : t.w = s.w) : AccessMove p s t (.assertStop s.w.u, x)
  | disable (x : Byte) (hst : (s.st = .txDisable ∧ t.st = .txRaise) ∨ (s.st = .rxDisable ∧ t.st = .rxRaise))
    (hw : t.w = s.w) : AccessMove p s t (.disableUnit s.w.u, x)
  | read (x : Byte) (hst : s.st = .rxRead) (hst' : t.st = .rxStore) (hw : t.w = s.w) :
    AccessMove p s t (.readRx s.w.u, x)

theorem afterTransmit_receive {w : Working} (h : w.d.direction = 1) : afterTransmit w = .prepTr := by
  rw [afterTransmit_eq, if_pos h]

theorem afterTransmit_stop {w : Working} (h : w.d.direction ≠ 1) : afterTransmit w = .stop := by
  rw [afterTransmit_eq, if_neg h]

/-- Where the engine's access leads, at each of its places in EXECUTE. -/
theorem State.accessed_advance_move {p : Params} {s : State} {i : Instr} (a : Access) (x : Byte)
    (hi : s.issue = some i) (hin : s.st.inExecute = true) (hplace : PlaceHolds s.w (s.active.get s.w.u) s.st) :
    AccessMove p s ((s.accessed i a x).advance p) (i, x) := by
  have hret : (s.accessed i a x).ret = x := rfl
  unfold State.issue at hi
  unfold State.advance
  cases hst : s.st <;>
    simp only [hst, reduceCtorEq, Option.some.injEq, State.accessed_st, State.accessed_w, hret] at hi hin hplace ⊢
  case act => cases hin
  case stop =>
    split at hi
    · cases hi
    next hs =>
      cases hi
      exact .stop x hst (by simpa using hs) rfl rfl
  all_goals subst hi
  case startAddr =>
    refine .plain ⟨rfl, rfl, rfl, rfl, rfl, rfl, rfl, rfl⟩ ?_ rfl
    rw [hst, State.afterAddr, State.setSt_st, State.accessed_w]
    split
    next hlen => exact .message hlen
    next hlen =>
      have hzero : s.w.d.outLen = 0 := BitVec.le_zero_iff.1 (BitVec.not_lt.1 hlen)
      by_cases hd : s.w.d.direction = 1
      · exact afterTransmit_receive hd ▸ .receiveOnly hzero hd
      · exact afterTransmit_stop hd ▸ .nothing hzero hd
  case startTr => exact .plain ⟨rfl, rfl, rfl, rfl, rfl, rfl, rfl, rfl⟩ (hst ▸ .direction) rfl
  case startStt => exact .start x (hst ▸ .transmit) rfl
  case txPoll =>
    refine .plain ⟨rfl, rfl, rfl, rfl, rfl, rfl, rfl, rfl⟩ ?_ rfl
    rw [hst, State.setSt_st]
    split
    · exact .txWaiting
    · exact .txReady
  case txWrite =>
    refine .write x hst ?_ rfl
    simp only [State.afterWrite]
    split
    · exact .inr rfl
    · exact .inl rfl
  case txClear =>
    refine .plain ⟨rfl, rfl, rfl, rfl, rfl, rfl, rfl, rfl⟩ ?_ rfl
    rw [hst, State.setSt_st]
    by_cases hd : s.w.d.direction = 1
    · exact afterTransmit_receive hd ▸ .thenReceive hd
    · exact afterTransmit_stop hd ▸ .thenStop hd
  case txNack =>
    unfold State.afterTxNack
    split
    next hx =>
      obtain rfl : x = 0 := hx
      exact .plain ⟨rfl, rfl, rfl, rfl, rfl, rfl, rfl, rfl⟩ (hst ▸ .txNoNack) rfl
    next hx =>
      refine .txNack x hx hst ?_ ?_
      · dsimp only
        split
        · exact .inr rfl
        · exact .inl rfl
      · cases hp : p.nackPolicy <;> rfl
  case txRestart => exact .start x (hst ▸ .txRetry) rfl
  case txStop => exact .abortStop x (.inl ⟨hst, rfl⟩) rfl
  case txDisable => exact .disable x (.inl ⟨hst, rfl⟩) rfl
  case prepTr => exact .plain ⟨rfl, rfl, rfl, rfl, rfl, rfl, rfl, rfl⟩ (hst ▸ .turned) rfl
  case prepClear => exact .plain ⟨rfl, rfl, rfl, rfl, rfl, rfl, rfl, rfl⟩ (hst ▸ .cleared) rfl
  case prepStt =>
    refine .start x ?_ rfl
    rw [hst, State.setSt_st]
    by_cases hone : s.w.d.respLen = 1
    · exact (if_pos hone : ite _ _ _ = _) ▸ .receiveOne hone
    · have hloop : StartMove s.w.d .prepStt (rxLoop s.w) := by
        unfold rxLoop
        split
        · exact .receive
        · exact .receiveNone
      exact (if_neg hone : ite _ _ _ = _) ▸ hloop
  case sttPoll =>
    split
    next hx =>
      obtain rfl := hx
      exact .sttDone hst rfl rfl
    next hx =>
      have hy : isSttDone (.readSttPending s.w.u, x) = false := by simpa [isSttDone] using hx
      refine .plain ⟨rfl, rfl, rfl, hy, rfl, rfl, rfl, rfl⟩ ?_ rfl
      rw [hst]
      exact .sttPending
  case sttStop =>
    obtain ⟨-, -, hf, -, hone⟩ := hplace
    refine .earlyStop x hst ?_ rfl
    simp [State.afterEarlyStop, rxLoop, hf.rxIndex, hone]
  case rxPoll =>
    refine .plain ⟨rfl, rfl, rfl, rfl, rfl, rfl, rfl, rfl⟩ ?_ rfl
    rw [hst, State.setSt_st]
    split
    · split
      · exact .rxAsks
      · exact .rxWaiting
    · exact .rxReady
  case rxRead => exact .read x hst rfl rfl
  case rxNack =>
    unfold State.afterRxNack
    split
    next hx =>
      obtain rfl : x = 0 := hx
      exact .plain ⟨rfl, rfl, rfl, rfl, rfl, rfl, rfl, rfl⟩ (hst ▸ .rxNoNack) rfl
    next hx =>
      refine .rxNack x hx hst ?_ rfl
      dsimp only
      split
      · exact .inr rfl
      · exact .inl rfl
  case rxRestart => exact .start x (hst ▸ .rxRetry) rfl
  case rxStop => exact .abortStop x (.inr ⟨hst, rfl⟩) rfl
  case rxDisable => exact .disable x (.inr ⟨hst, rfl⟩) rfl
  case stpPoll =>
    refine .plain ⟨rfl, rfl, rfl, rfl, rfl, rfl, rfl, rfl⟩ ?_ rfl
    rw [hst, State.setSt_st]
    split
    · exact .stpDone
    · exact .stpPending

/-- No access leads to WriteTx: the byte is read from host memory first (R133). -/
theorem AccessMove.not_write {p : Params} {s t : State} {y : Instr × Byte} (h : AccessMove p s t y) :
    t.st ≠ .txWrite := by
  cases h with
  | plain hy hm hw => generalize s.st = e, t.st = e' at hm; cases hm <;> nofun
  | start x hm hw => generalize s.st = e, t.st = e' at hm; cases hm <;> nofun
  | write x hst hst' hw | txNack x _ hst hst' hw | rxNack x _ hst hst' hw => rcases hst' with h | h <;> rw [h] <;> nofun
  | sttDone hst hst' hw | stop x hst _ hst' hw | earlyStop x hst hst' hw | read x hst hst' hw => rw [hst']; nofun
  | abortStop x hst hw | disable x hst hw => rcases hst with ⟨-, h⟩ | ⟨-, h⟩ <;> rw [h] <;> nofun

theorem isNackSeen_readNack (u : UnitId) {x : Byte} (hx : x ≠ 0) : isNackSeen (.readNack u, x) = true :=
  bne_iff_ne.2 hx

/-- A step of a history that is an access. -/
structure AccessStep (p : Params) (s t : State) (y : Instr × Byte) : Prop where
  place : PlaceHolds s.w (s.active.get s.w.u) s.st
  move : AccessMove p s t y
  mem : t.mem = s.mem
  ret : t.ret = y.2

theorem History.accessStep {p : Params} {s₀ s : State} {tr : List (Instr × Byte)} {i : Instr} (h : History p s₀ tr s)
    (hst₀ : s₀.st = .startAddr) (hok : s₀.placeOk = true) (a : Access) (x : Byte) (hi : s.issue = some i) :
    AccessStep p s ((s.accessed i a x).advance p) (i, x) := by
  have hplace := (State.placeOk_iff s).1 (h.placeOk hok)
  have hin := (h.follows (by rw [hst₀]; rfl)).1
  exact ⟨hplace, State.accessed_advance_move a x hi hin hplace, (State.advance_frame _ p).1, State.advance_ret ..⟩

theorem State.storeByte_st (s : State) : s.storeByte.st = .rxPoll ∨ s.storeByte.st = .stop := by
  simp only [State.storeByte, rxLoop]
  split
  · exact .inl rfl
  · exact .inr rfl

/-! ## STARTs (R149(d)) -/

/-- A NACK is counted, and its START is still to be requested or the abort has come instead (R135, R137, R142). -/
def EngineState.owed : EngineState → Nat
  | .txRestart | .txStop | .txDisable | .txRaise | .rxRestart | .rxStop | .rxDisable | .rxRaise => 1
  | _ => 0

/-- The STARTs that open the phases up to a place: S_START's and S_PREP_RX's (R131, R138). -/
def EngineState.opened (d : Descriptor) : EngineState → Nat
  | .startAddr | .startTr | .startStt => 0
  | .sttPoll | .sttStop | .rxPoll | .rxRead | .rxStore | .rxNack | .rxRestart | .rxStop | .rxDisable | .rxRaise =>
    (if 0 < d.outLen then 1 else 0) + 1
  | .stop | .stpPoll | .stpRaise => (if 0 < d.outLen then 1 else 0) + if d.direction = 1 then 1 else 0
  | _ => if 0 < d.outLen then 1 else 0

theorem PlainMove.opened {d : Descriptor} {e e' : EngineState} (h : PlainMove d e e') :
    e'.opened d = e.opened d ∧ e.owed = 0 ∧ e'.owed = 0 := by
  cases h <;> simp_all [EngineState.opened, EngineState.owed]

/-- AssertStart opens a phase or pays for a NACK. -/
theorem StartMove.opened {w : Working} {active : Bool} {e e' : EngineState} (h : StartMove w.d e e')
    (hplace : PlaceHolds w active e) : e'.opened w.d + e.owed = e.opened w.d + 1 ∧ e'.owed = 0 := by
  cases h
  case transmit =>
    obtain ⟨-, -, -, -, hlen⟩ := hplace
    simp only [EngineState.opened, EngineState.owed, if_pos hlen, and_self]
  case receiveNone =>
    obtain ⟨-, hs, -⟩ := hplace
    simp [EngineState.opened, EngineState.owed, (isReceive_iff _).1 hs.direction]
  all_goals exact ⟨rfl, rfl⟩

theorem opened_stop_receive {d : Descriptor} (h : d.direction = 1) :
    EngineState.stop.opened d = EngineState.rxStore.opened d := by
  simp only [EngineState.opened, if_pos h]

/-- The STARTs so far: one for each phase opened and one for each NACK that the engine has answered. -/
def StartsCounted (tr : List (Instr × Byte)) (s : State) : Prop :=
  tr.countP isAssertStart + s.st.owed = tr.countP isNackSeen + s.st.opened s.w.d

theorem AccessStep.starts {p : Params} {s t : State} {y : Instr × Byte} {tr : List (Instr × Byte)}
    (h : AccessStep p s t y) (hs : StartsCounted tr s) : StartsCounted (tr ++ [y]) t := by
  unfold StartsCounted at hs ⊢
  rw [List.countP_append, List.countP_append, List.countP_singleton, List.countP_singleton]
  cases h.move with
  | plain hy hm hw =>
    obtain ⟨hopened, howed, howed'⟩ := hm.opened
    simp only [howed, hy.start, hy.nack, hw, hopened, howed'] at hs ⊢
    exact hs
  | start x hm hw =>
    obtain ⟨hopened, howed'⟩ := hm.opened h.place
    simp only [isAssertStart, isNackSeen, hw, howed'] at hs ⊢
    simp
    omega
  | write x hst hst' hw =>
    rcases hst' with hst' | hst' <;> rw [hst', hw] <;> rw [hst] at hs <;> exact hs
  | txNack x hx hst hst' hw | rxNack x hx hst hst' hw =>
    have hy := isNackSeen_readNack s.w.u hx
    rcases hst' with hst' | hst' <;>
      simp [isAssertStart, hy, hw, hst, hst', EngineState.owed, EngineState.opened] at hs ⊢ <;> omega
  | sttDone hst hst' hw | earlyStop x hst hst' hw | stop x hst _ hst' hw | read x hst hst' hw =>
    rw [hst', hw]
    rw [hst] at hs
    exact hs
  | abortStop x hst hw | disable x hst hw =>
    rcases hst with ⟨hst, hst'⟩ | ⟨hst, hst'⟩ <;> rw [hst', hw] <;> rw [hst] at hs <;> exact hs

theorem History.startsCounted {p : Params} {s₀ s : State} {tr : List (Instr × Byte)} (h : History p s₀ tr s)
    (hst₀ : s₀.st = .startAddr) (hok : s₀.placeOk = true) : StartsCounted tr s := by
  induction h with
  | start =>
    rw [StartsCounted, hst₀]
    rfl
  | access x h hi hu ih => exact (h.accessStep hst₀ hok _ x hi).starts ih
  | fetch h hst ih =>
    rw [StartsCounted, hst] at ih
    exact ih
  | store h hst ih =>
    have hplace := (State.placeOk_iff _).1 (h.placeOk hok)
    rw [hst] at hplace
    obtain ⟨-, hp, -⟩ := hplace
    rw [StartsCounted, hst] at ih
    rcases State.storeByte_st _ with hst' | hst' <;> rw [StartsCounted, hst']
    · exact ih
    · exact ih.trans (congrArg _ (opened_stop_receive ((isReceive_iff _).1 hp.sent.direction)).symm)
  | others h units turns ih => exact ih

/-- Settles O54: at the places that raise `NoError` no START is owed, and all phases were opened. -/
theorem returnedExecuteCountsItsStarts : Obligations.ReturnedExecuteCountsItsStarts := by
  intro prm s t n hq hok hst hrun hidle hresult
  obtain ⟨s', c, h, hr⟩ := returned_history hq hst hrun hidle
  have hcount := h.startsCounted hst hok
  rw [StartsCounted, (h.follows (by rw [hst]; rfl)).2.1] at hcount
  rw [Nat.add_comm _ (List.countP _ _)]
  rcases hr.noError hresult with ⟨hend, -⟩ | hend <;> rw [hend] at hcount <;> exact hcount

end Sys2Proof.Machine
end

section
/-! PROOFS. NACKs, STOPs and the unit's disabling in the trace of an EXECUTE (R135, R137, R149). -/

namespace Sys2Proof.Machine

/-! ## NACKs in a row (R135) -/

/-- The trace ends in a part without a WriteTx that holds as many NACKs as are counted. -/
def NacksInARow (tr : List (Instr × Byte)) (s : State) : Prop :=
  ∃ before after, tr = before ++ after ∧ after.countP isWriteTx = 0 ∧ after.countP isNackSeen = s.w.nackCount.toNat

section
variable {p : Params} {s₀ s t : State} {y : Instr × Byte} {tr : List (Instr × Byte)}

theorem NacksInARow.snoc (h : NacksInARow tr s) (hy : isWriteTx y = false)
    (hn : t.w.nackCount.toNat = s.w.nackCount.toNat + if isNackSeen y then 1 else 0) : NacksInARow (tr ++ [y]) t := by
  obtain ⟨before, after, htr, hwrite, hnack⟩ := h
  refine ⟨before, after ++ [y], by rw [htr, List.append_assoc], ?_, ?_⟩
  · rw [List.countP_append, hwrite, List.countP_singleton, hy]
    rfl
  · rw [List.countP_append, hnack, List.countP_singleton, hn]

/-- A count below the limit does not go round. -/
theorem nackCount_succ_toNat {c : Byte} (h : c < Config.maxNack) : (c + 1).toNat = c.toNat + 1 := by
  unfold Config.maxNack at h
  bv_omega

theorem AccessStep.nacksInARow (h : AccessStep p s t y) (hs : NacksInARow tr s) : NacksInARow (tr ++ [y]) t := by
  have hplace := h.place
  cases h.move with
  | plain hy hm hw => exact hs.snoc hy.write (by rw [hw, hy.nack]; rfl)
  | write x hst hst' hw => exact ⟨tr ++ [_], [], (List.append_nil _).symm, rfl, by rw [hw]; rfl⟩
  | txNack x hx hst hst' hw | rxNack x hx hst hst' hw =>
    rw [hst] at hplace
    obtain ⟨-, -, hlt⟩ := hplace
    refine hs.snoc rfl ?_
    rw [hw, isNackSeen_readNack _ hx]
    exact nackCount_succ_toNat hlt
  | start x hm hw | sttDone hst hst' hw | earlyStop x hst hst' hw | stop x hst _ hst' hw | abortStop x hst hw
  | disable x hst hw | read x hst hst' hw => exact hs.snoc rfl (by rw [hw]; rfl)

theorem History.nacksInARow (h : History p s₀ tr s) (hst₀ : s₀.st = .startAddr) (hok : s₀.placeOk = true) :
    NacksInARow tr s := by
  induction h with
  | start =>
    have hplace := (State.placeOk_iff s₀).1 hok
    rw [hst₀] at hplace
    obtain ⟨-, -, -, hzero⟩ := hplace
    exact ⟨[], [], rfl, rfl, by rw [hzero]; rfl⟩
  | access x h hi hu ih => exact (h.accessStep hst₀ hok _ x hi).nacksInARow ih
  | fetch h hst ih => exact ih
  | store h hst ih => exact ih
  | others h units turns ih => exact ih

end

/-- Settles O55: at the abort's `raise` the count is at its limit. -/
theorem nackLimitNeedsTenNacksInARow : Obligations.NackLimitNeedsTenNacksInARow := by
  intro prm s t n hq hok hst hrun hidle hresult
  obtain ⟨s', c, h, hr⟩ := returned_history hq hst hrun hidle
  have hplace := (State.placeOk_iff s').1 (h.placeOk hok)
  have hlimit : s'.w.nackCount = Config.maxNack := by
    rcases hr.nackLimit hresult with hend | hend <;> rw [hend] at hplace <;> exact hplace.2.2
  obtain ⟨before, after, htr, hwrite, hnack⟩ := h.nacksInARow hst hok
  rw [hlimit] at hnack
  exact ⟨before, after, htr, hwrite, hnack⟩

/-! ## STOPs and DisableUnit (R149(c)) -/

/-- The STOP of S_STOP or of the abort is requested (R137, R144). -/
def EngineState.stopped : EngineState → Nat
  | .txDisable | .txRaise | .rxDisable | .rxRaise | .stpPoll | .stpRaise => 1
  | _ => 0

/-- The loop of S_WAIT_STT has ended, and its STOP is the next access (R139). -/
def EngineState.sttEnded : EngineState → Nat
  | .sttStop => 1
  | _ => 0

/-- The abort has disabled the unit (R137). -/
def EngineState.disabled : EngineState → Nat
  | .txRaise | .rxRaise => 1
  | _ => 0

/-- The STOPs so far, of S_WAIT_STT and of the end, and the one DisableUnit, which is the last access. -/
structure StopsCounted (tr : List (Instr × Byte)) (s : State) : Prop where
  stops : tr.countP isAssertStop = s.w.stopIssued.toNat + s.st.stopped
  sttDone : tr.countP isSttDone = s.w.stopIssued.toNat + s.st.sttEnded
  disables : tr.countP isDisableUnit = s.st.disabled
  last : s.st.disabled = 1 → tr.getLast?.map Prod.fst = some (.disableUnit s.w.u)

section
variable {p : Params} {s₀ s t : State} {y : Instr × Byte} {tr : List (Instr × Byte)}

theorem StopsCounted.snoc (h : StopsCounted tr s) {w : Working} {e e' : EngineState} (hst : s.st = e) (hst' : t.st = e')
    (hw : t.w = w)
    (hstop : w.stopIssued.toNat + e'.stopped = s.w.stopIssued.toNat + e.stopped + if isAssertStop y then 1 else 0)
    (hstt : w.stopIssued.toNat + e'.sttEnded = s.w.stopIssued.toNat + e.sttEnded + if isSttDone y then 1 else 0)
    (hdis : e'.disabled = e.disabled + if isDisableUnit y then 1 else 0)
    (hlast : e'.disabled = 1 → y.1 = .disableUnit w.u) : StopsCounted (tr ++ [y]) t := by
  subst hst hst' hw
  refine ⟨?_, ?_, ?_, fun hd => ?_⟩
  · rw [List.countP_append, List.countP_singleton, h.stops, hstop]
  · rw [List.countP_append, List.countP_singleton, h.sttDone, hstt]
  · rw [List.countP_append, List.countP_singleton, h.disables, hdis]
  · rw [List.getLast?_concat, Option.map_some, hlast hd]

theorem PlainMove.stops {d : Descriptor} {e e' : EngineState} (h : PlainMove d e e') :
    e'.stopped = e.stopped ∧ e'.sttEnded = e.sttEnded ∧ e'.disabled = e.disabled ∧ e'.disabled ≠ 1 := by
  cases h <;> exact ⟨rfl, rfl, rfl, nofun⟩

theorem StartMove.stops {d : Descriptor} {e e' : EngineState} (h : StartMove d e e') :
    e'.stopped = e.stopped ∧ e'.sttEnded = e.sttEnded ∧ e'.disabled = e.disabled ∧ e'.disabled ≠ 1 := by
  cases h <;> exact ⟨rfl, rfl, rfl, nofun⟩

theorem AccessStep.stopsCounted (h : AccessStep p s t y) (hs : StopsCounted tr s) : StopsCounted (tr ++ [y]) t := by
  have hplace := h.place
  cases h.move with
  | plain hy hm hw =>
    obtain ⟨hstop, hstt, hdis, hnot⟩ := hm.stops
    exact hs.snoc rfl rfl hw (by rw [hstop, hy.stop]; rfl) (by rw [hstt, hy.sttDone]; rfl) (by rw [hdis, hy.disable]; rfl)
      fun hd => absurd hd hnot
  | start x hm hw =>
    obtain ⟨hstop, hstt, hdis, hnot⟩ := hm.stops
    exact hs.snoc rfl rfl hw (by rw [hstop]; rfl) (by rw [hstt]; rfl) (by rw [hdis]; rfl) fun hd => absurd hd hnot
  | write x hst hst' hw | txNack x _ hst hst' hw | rxNack x _ hst hst' hw =>
    rcases hst' with hst' | hst' <;> exact hs.snoc hst hst' hw rfl rfl rfl nofun
  | sttDone hst hst' hw | stop x hst _ hst' hw | read x hst hst' hw => exact hs.snoc hst hst' hw rfl rfl rfl nofun
  | earlyStop x hst hst' hw =>
    rw [hst] at hplace
    obtain ⟨-, -, hf, -⟩ := hplace
    exact hs.snoc hst hst' hw (by rw [hf.stopIssued]; rfl) (by rw [hf.stopIssued]; rfl) rfl nofun
  | abortStop x hst hw =>
    rcases hst with ⟨hst, hst'⟩ | ⟨hst, hst'⟩ <;> exact hs.snoc hst hst' hw rfl rfl rfl nofun
  | disable x hst hw =>
    rcases hst with ⟨hst, hst'⟩ | ⟨hst, hst'⟩ <;> exact hs.snoc hst hst' hw rfl rfl rfl fun _ => rfl

/-- A step that is no access leaves the counts, if it leads to a place with the same ones. -/
theorem StopsCounted.move (h : StopsCounted tr s) {e e' : EngineState} (hst : s.st = e) (hst' : t.st = e')
    (hs : t.w.stopIssued = s.w.stopIssued) (hstop : e'.stopped = e.stopped) (hstt : e'.sttEnded = e.sttEnded)
    (hdis : e'.disabled = e.disabled) (hnot : e'.disabled ≠ 1) : StopsCounted tr t := by
  subst hst hst'
  exact ⟨by rw [hs, hstop, h.stops], by rw [hs, hstt, h.sttDone], by rw [hdis, h.disables], fun hd => absurd hd hnot⟩

theorem History.stopsCounted (h : History p s₀ tr s) (hst₀ : s₀.st = .startAddr) (hok : s₀.placeOk = true) :
    StopsCounted tr s := by
  induction h with
  | start =>
    have hplace := (State.placeOk_iff s₀).1 hok
    rw [hst₀] at hplace
    obtain ⟨-, hf, -⟩ := hplace
    constructor <;> rw [hst₀]
    · rw [hf.stopIssued]; rfl
    · rw [hf.stopIssued]; rfl
    · rfl
    · nofun
  | access x h hi hu ih => exact (h.accessStep hst₀ hok _ x hi).stopsCounted ih
  | fetch h hst ih => exact ih.move hst rfl rfl rfl rfl rfl nofun
  | store h hst ih =>
    rcases State.storeByte_st _ with hst' | hst' <;> exact ih.move hst hst' rfl rfl rfl rfl nofun
  | others h units turns ih => exact ⟨ih.stops, ih.sttDone, ih.disables, ih.last⟩

end

/-- Settles O51: the counts at the two places that raise `NoError` and the two that raise `NackLimitReached`. -/
theorem returnedExecuteCountsItsStops : Obligations.ReturnedExecuteCountsItsStops := by
  intro prm s t n hq hok hst hrun hidle tr
  obtain ⟨s', c, h, hr⟩ := returned_history hq hst hrun hidle
  obtain ⟨hstops, hstt, hdis, hlast⟩ := h.stopsCounted hst hok
  obtain ⟨-, hd, hu⟩ := h.follows (by rw [hst]; rfl)
  have hplace := (State.placeOk_iff s').1 (h.placeOk hok)
  have hactive : t.active.get s.w.u = s'.active.get s'.w.u := by rw [hr.active, hu]
  rw [hu] at hlast
  cases hr.raising with
  | stopped hend hs =>
    rw [hend] at hplace hstops hdis
    rw [hs] at hstops
    exact .inl ⟨hr.result, hstops, hdis, hactive.trans hplace.1⟩
  | awaited hend =>
    rw [hend] at hplace hstops hdis
    rw [hplace.2.2] at hstops
    exact .inl ⟨hr.result, hstops, hdis, hactive.trans hplace.1⟩
  | transmitLimit hend =>
    rw [hend] at hplace hstops hstt hdis hlast
    obtain ⟨hoff, hsend, -⟩ := hplace
    rw [hsend.fresh.stopIssued] at hstops hstt
    refine .inr ⟨hr.result, ?_, .inl hstt, hdis, hactive.trans hoff, hlast rfl⟩
    exact hstops.trans (congrArg (1 + ·) hstt).symm
  | receiveLimit hend =>
    rw [hend] at hplace hstops hstt hdis hlast
    obtain ⟨hoff, hp, -⟩ := hplace
    refine .inr ⟨hr.result, ?_, ?_, hdis, hactive.trans hoff, hlast rfl⟩
    · rw [hstops, hstt]
      exact Nat.add_comm _ 1
    · rw [hp.stopIssued, hd] at hstt
      by_cases hone : s.w.d.respLen = 1
      · have hreceive := (isReceive_iff _).1 hp.sent.direction
        rw [hd] at hreceive
        exact .inr ⟨by rw [hstt, hone]; rfl, hreceive, hone⟩
      · exact .inl (by rw [hstt, beq_eq_false_iff_ne.2 hone]; rfl)

end Sys2Proof.Machine
end

section
/-! PROOFS. The bytes of an EXECUTE (R149(a), R149(b)): those it has received stand in host memory, and those it has
written are the message's. -/

namespace Sys2Proof.Machine

/-! ## Bytes received (R141, R48) -/

theorem writesAt_append (p : Half) (l : List Byte) (b : Byte) :
    writesAt p (l ++ [b]) = writesAt p l ++ [(p + BitVec.ofNat 16 l.length, b)] := by
  induction l generalizing p with
  | nil => simp [writesAt]
  | cons c rest ih => simp only [List.cons_append, writesAt, ih, half_add_one_add, List.length_cons]

theorem State.writes_append (s : State) (ws : List (Half × Byte)) (a : Half) (b : Byte) :
    s.writes (ws ++ [(a, b)]) = (s.writes ws).memWrite a b := List.foldl_append ..

/-- Host memory is that of `s₀` with the bytes `l` stored from `respPtr` on, and `l` are the bytes received, but for the
one that is to be stored next. -/
structure Stored (s₀ : State) (tr : List (Instr × Byte)) (s : State) (l : List Byte) : Prop where
  mem : s.mem = (s₀.writes (writesAt s₀.w.d.respPtr l)).mem
  length : l.length = s.w.rxIndex.toNat
  received : tr.filterMap receivedByte = l ++ if s.st = .rxStore then [s.ret] else []

section
variable {p : Params} {s₀ s t : State} {y : Instr × Byte} {tr : List (Instr × Byte)} {l : List Byte}

/-- An access that is no ReadRx receives nothing. -/
theorem Stored.snoc (h : Stored s₀ tr s l) (hmem : t.mem = s.mem) (hw : t.w.rxIndex = s.w.rxIndex)
    (hst : s.st ≠ .rxStore) (hst' : t.st ≠ .rxStore) (hy : receivedByte y = none) : Stored s₀ (tr ++ [y]) t l := by
  refine ⟨hmem.trans h.mem, hw ▸ h.length, ?_⟩
  rw [List.filterMap_append, h.received, if_neg hst, if_neg hst', List.filterMap_cons_none hy, List.filterMap_nil,
    List.append_nil]

theorem PlainMove.not_store {d : Descriptor} {e e' : EngineState} (h : PlainMove d e e') :
    e ≠ .rxStore ∧ e' ≠ .rxStore := by
  cases h <;> exact ⟨nofun, nofun⟩

theorem StartMove.not_store {d : Descriptor} {e e' : EngineState} (h : StartMove d e e') :
    e ≠ .rxStore ∧ e' ≠ .rxStore := by
  cases h <;> exact ⟨nofun, nofun⟩

theorem AccessStep.stored (h : AccessStep p s t y) (hs : Stored s₀ tr s l) : Stored s₀ (tr ++ [y]) t l := by
  have hret := h.ret
  cases h.move with
  | plain hy hm hw => exact hs.snoc h.mem (by rw [hw]) hm.not_store.1 hm.not_store.2 hy.received
  | start x hm hw => exact hs.snoc h.mem (by rw [hw]) hm.not_store.1 hm.not_store.2 rfl
  | write x hst hst' hw | txNack x _ hst hst' hw | rxNack x _ hst hst' hw =>
    rcases hst' with hst' | hst' <;> exact hs.snoc h.mem (by rw [hw]) (hst ▸ nofun) (hst' ▸ nofun) rfl
  | sttDone hst hst' hw | stop x hst _ hst' hw | earlyStop x hst hst' hw =>
    exact hs.snoc h.mem (by rw [hw]) (hst ▸ nofun) (hst' ▸ nofun) rfl
  | abortStop x hst hw | disable x hst hw =>
    rcases hst with ⟨hst, hst'⟩ | ⟨hst, hst'⟩ <;> exact hs.snoc h.mem (by rw [hw]) (hst ▸ nofun) (hst' ▸ nofun) rfl
  | read x hst hst' hw =>
    refine ⟨h.mem.trans hs.mem, by rw [hw]; exact hs.length, ?_⟩
    have hreceived := hs.received
    rw [if_neg (hst ▸ nofun)] at hreceived
    rw [List.filterMap_append, hreceived, if_pos hst', hret, List.append_nil]
    rfl

theorem History.stored (h : History p s₀ tr s) (hst₀ : s₀.st = .startAddr) (hok : s₀.placeOk = true) :
    ∃ l, Stored s₀ tr s l := by
  induction h with
  | start =>
    have hplace := (State.placeOk_iff s₀).1 hok
    rw [hst₀] at hplace
    obtain ⟨-, hf, -⟩ := hplace
    exact ⟨[], rfl, by rw [hf.rxIndex]; rfl, by rw [if_neg (hst₀ ▸ nofun)]; rfl⟩
  | access x h hi hu ih =>
    obtain ⟨l, hl⟩ := ih
    exact ⟨l, (h.accessStep hst₀ hok _ x hi).stored hl⟩
  | fetch h hst ih =>
    obtain ⟨l, hl⟩ := ih
    have hreceived := hl.received
    rw [if_neg (hst ▸ nofun)] at hreceived
    exact ⟨l, hl.mem, hl.length, hreceived⟩
  | @store tr s h hst ih =>
    obtain ⟨l, hl⟩ := ih
    have hplace := (State.placeOk_iff _).1 (h.placeOk hok)
    rw [hst] at hplace
    obtain ⟨-, hp, -⟩ := hplace
    have hreceived := hl.received
    rw [if_pos hst] at hreceived
    have hnot : s.storeByte.st ≠ .rxStore := by rcases State.storeByte_st s with h | h <;> rw [h] <;> nofun
    refine ⟨l ++ [s.ret], ?_, ?_, ?_⟩
    · have haddr : s₀.w.d.respPtr + BitVec.ofNat 16 l.length = rxAddr s.w := by
        rw [hl.length, BitVec.ofNat_toNat, BitVec.setWidth_eq, rxAddr, (h.follows (by rw [hst₀]; rfl)).2.1]
      rw [writesAt_append, State.writes_append, haddr, State.memWrite_mem, ← hl.mem]
      rfl
    · rw [List.length_append, hl.length]
      have hlt := hp.rxIndex
      show s.w.rxIndex.toNat + 1 = (s.w.rxIndex + 1).toNat
      bv_omega
    · rw [if_neg hnot, List.append_nil]
      exact hreceived
  | others h units turns ih => exact ih.imp fun l hl => ⟨hl.mem, hl.length, hl.received⟩

end

/-- Settles O53: at the places that raise `NoError` the response is complete, and no byte is still to be stored. -/
theorem returnedExecuteStoredTheResponse : Obligations.ReturnedExecuteStoredTheResponse := by
  intro prm s t n hq hok hwf hst hrun hidle hresult got
  obtain ⟨s', c, h, hr⟩ := returned_history hq hst hrun hidle
  obtain ⟨l, hl⟩ := h.stored hst hok
  have hd := (h.follows (by rw [hst]; rfl)).2.1
  have hplace := (State.placeOk_iff s').1 (h.placeOk hok)
  have hend : s'.w.Ending ∧ s'.st ≠ .rxStore := by
    rcases hr.noError hresult with ⟨hend, -⟩ | hend <;> rw [hend] at hplace ⊢ <;> exact ⟨hplace.2.1, nofun⟩
  have hgot : got = l := by
    have hreceived := hl.received
    rwa [if_neg hend.2, List.append_nil] at hreceived
  have hlength := hl.length
  rw [hend.1.rxIndex, hd] at hlength
  have hread : ∀ x : Half, t.memRead x = (s.writes (writesAt s.w.d.respPtr l)).memRead x := fun x =>
    congrArg (Memory.readAt · x.toNat) (hr.mem.trans hl.mem)
  rw [hgot]
  refine ⟨fun hdir => ?_, fun hdir => ?_⟩
  · rw [if_neg (mt (isReceive_iff _).1 hdir)] at hlength
    obtain rfl := List.length_eq_zero_iff.1 hlength
    exact ⟨rfl, hread⟩
  · rw [if_pos ((isReceive_iff _).2 hdir)] at hlength
    have hlt := s.w.d.respLen.isLt
    refine ⟨hlength, fun k hk => ?_, fun x hx => ?_⟩
    · rw [hread, State.memRead_writesAt hwf (by omega) (by omega)]
      exact List.getElem?_eq_getElem _
    · rw [hread]
      refine State.memRead_writes_other hwf fun y hy => ?_
      obtain ⟨k, hk, he⟩ := mem_writesAt hy
      exact he ▸ hx k (hlength ▸ hk)

/-! ## Bytes written (R133, R136) -/

theorem State.message_length (s : State) : s.message.length = s.w.d.outLen.toNat := by
  simp only [State.message, List.length_map, List.length_range]

/-- The message up to a byte and that byte (R43, R47). -/
theorem State.message_take_succ (s : State) {i : Half} (h : i < s.w.d.outLen) :
    s.message.take (i + 1).toNat = s.message.take i.toNat ++ [s.memRead (s.w.d.outPtr + i)] := by
  have hlt : i.toNat < s.message.length := s.message_length ▸ h
  have hsucc : (i + 1).toNat = i.toNat + 1 := by bv_omega
  have hbyte : s.message[i.toNat] = s.memRead (s.w.d.outPtr + i) := by
    simp only [State.message, List.getElem_map, List.getElem_range, BitVec.ofNat_toNat, BitVec.setWidth_eq]
  rw [hsucc, List.take_succ_eq_append_getElem hlt, hbyte]

/-- The bytes written are proper beginnings of the message, of the lengths `ks`, and what was sent since the last rewind;
no rewind happens under `ResendByte` or without a NACK (R136). -/
structure Written (p : Params) (s₀ : State) (tr : List (Instr × Byte)) (s : State) (ks : List Nat) : Prop where
  proper : ∀ k, k ∈ ks → k < s₀.w.d.outLen.toNat
  bytes : tr.filterMap writtenByte = (ks.map fun k => s₀.message.take k).flatten ++ s₀.message.take s.w.txIndex.toNat
  whole : p.nackPolicy = .resendByte ∨ tr.countP isNackSeen = 0 → ks = []

section
variable {p : Params} {s₀ s t : State} {y : Instr × Byte} {tr : List (Instr × Byte)} {ks : List Nat}

/-- An access that is no WriteTx and no rewind writes nothing. -/
theorem Written.snoc (h : Written p s₀ tr s ks) (hw : t.w.txIndex = s.w.txIndex) (hy : writtenByte y = none) :
    Written p s₀ (tr ++ [y]) t ks := by
  refine ⟨h.proper, ?_, fun hcase => h.whole (hcase.imp_right fun hzero => ?_)⟩
  · rw [List.filterMap_append, h.bytes, hw, List.filterMap_cons_none hy, List.filterMap_nil, List.append_nil]
  · rw [List.countP_append] at hzero
    exact Nat.eq_zero_of_add_eq_zero_right hzero

/-- A rewind makes what was sent since the last one a proper beginning more (R136). -/
theorem Written.rewind (h : Written p s₀ tr s ks) (hp : p.nackPolicy = .restartMessage)
    (hlt : s.w.txIndex.toNat < s₀.w.d.outLen.toNat) (hw : t.w.txIndex = 0) (hy : writtenByte y = none)
    (hn : isNackSeen y = true) : Written p s₀ (tr ++ [y]) t (ks ++ [s.w.txIndex.toNat]) := by
  refine ⟨fun k hk => ?_, ?_, ?_⟩
  · rcases List.mem_append.1 hk with hk | hk
    · exact h.proper k hk
    · exact List.mem_singleton.1 hk ▸ hlt
  · rw [List.filterMap_append, h.bytes, hw, List.filterMap_cons_none hy]
    simp
  · rw [hp, List.countP_append, List.countP_singleton, hn]
    rintro (hcase | hcase)
    · cases hcase
    · simp at hcase

theorem AccessStep.written (h : AccessStep p s t y) (hs : Written p s₀ tr s ks) (hd : s.w.d = s₀.w.d)
    (hret : s.st = .txWrite → s.ret = s₀.memRead (txAddr s.w)) : ∃ ks, Written p s₀ (tr ++ [y]) t ks := by
  have hplace := h.place
  cases h.move with
  | plain hy hm hw => exact ⟨ks, hs.snoc (by rw [hw]) hy.written⟩
  | write x hst hst' hw =>
    rw [hst] at hplace
    obtain ⟨-, hsend, -⟩ := hplace
    have hlt := hsend.txIndex
    rw [hd] at hlt
    refine ⟨ks, hs.proper, ?_, fun hcase => hs.whole (hcase.imp_right fun hzero => ?_)⟩
    · rw [List.filterMap_append, hs.bytes, hw, State.message_take_succ s₀ hlt, hret hst, txAddr, hd, List.append_assoc]
      rfl
    · rw [List.countP_append] at hzero
      exact Nat.eq_zero_of_add_eq_zero_right hzero
  | txNack x hx hst hst' hw =>
    rw [hst] at hplace
    obtain ⟨-, hsend, -⟩ := hplace
    cases hp : p.nackPolicy with
    | resendByte => exact ⟨ks, hs.snoc (by rw [hw, rewoundIndex, hp]; rfl) rfl⟩
    | restartMessage =>
      exact ⟨_, hs.rewind hp (hd ▸ hsend.txIndex) (by rw [hw, rewoundIndex, hp]; rfl) rfl (isNackSeen_readNack _ hx)⟩
  | start x hm hw | rxNack x _ hst hst' hw | sttDone hst hst' hw | stop x hst _ hst' hw | earlyStop x hst hst' hw
  | abortStop x hst hw | disable x hst hw | read x hst hst' hw => exact ⟨ks, hs.snoc (by rw [hw]) rfl⟩

variable (hst₀ : s₀.st = .startAddr) (hok : s₀.placeOk = true)
include hst₀ hok

/-- Until a byte of the response is stored, host memory is as it was. -/
theorem History.mem_of_fresh (h : History p s₀ tr s) (hf : s.w.Fresh) : s.mem = s₀.mem := by
  obtain ⟨l, hl⟩ := h.stored hst₀ hok
  have hlength := hl.length
  rw [hf.rxIndex] at hlength
  obtain rfl := List.length_eq_zero_iff.1 hlength
  exact hl.mem

/-- The byte that WriteTx sends is the message's at the transmit index (R133). -/
theorem History.fetched (h : History p s₀ tr s) : s.st = .txWrite → s.ret = s₀.memRead (txAddr s.w) := by
  induction h with
  | start => exact fun hst => by rw [hst₀] at hst; cases hst
  | access x h hi hu ih => exact fun hst => absurd hst (h.accessStep hst₀ hok _ x hi).move.not_write
  | @fetch tr s h hst ih =>
    intro _
    have hplace := (State.placeOk_iff _).1 (h.placeOk hok)
    rw [hst] at hplace
    obtain ⟨-, hsend, -⟩ := hplace
    exact congrArg (Memory.readAt · (txAddr s.w).toNat) (h.mem_of_fresh hst₀ hok hsend.fresh)
  | @store tr s h hst ih =>
    intro hst
    rcases State.storeByte_st s with h | h <;> rw [h] at hst <;> cases hst
  | others h units turns ih => exact ih

theorem History.written (h : History p s₀ tr s) : ∃ ks, Written p s₀ tr s ks := by
  induction h with
  | start =>
    have hplace := (State.placeOk_iff s₀).1 hok
    rw [hst₀] at hplace
    obtain ⟨-, -, hzero, -⟩ := hplace
    exact ⟨[], nofun, by rw [hzero]; rfl, fun _ => rfl⟩
  | access x h hi hu ih =>
    obtain ⟨ks, hks⟩ := ih
    exact (h.accessStep hst₀ hok _ x hi).written hks (h.follows (by rw [hst₀]; rfl)).2.1 (h.fetched hst₀ hok)
  | fetch h hst ih => exact ih.imp fun ks hks => ⟨hks.proper, hks.bytes, hks.whole⟩
  | store h hst ih => exact ih.imp fun ks hks => ⟨hks.proper, hks.bytes, hks.whole⟩
  | others h units turns ih => exact ih.imp fun ks hks => ⟨hks.proper, hks.bytes, hks.whole⟩

end

/-- Settles O52: at the places that raise `NoError` the whole message is sent since the last rewind. -/
theorem returnedExecuteSentTheMessage : Obligations.ReturnedExecuteSentTheMessage := by
  intro prm s t n hq hok hst hrun hidle hresult
  obtain ⟨s', c, h, hr⟩ := returned_history hq hst hrun hidle
  obtain ⟨ks, hproper, hbytes, hwhole⟩ := h.written hst hok
  have hplace := (State.placeOk_iff s').1 (h.placeOk hok)
  have hend : s'.w.Ending := by
    rcases hr.noError hresult with ⟨hend, -⟩ | hend <;> rw [hend] at hplace <;> exact hplace.2.1
  rw [hend.txIndex, (h.follows (by rw [hst]; rfl)).2.1, ← State.message_length, List.take_length] at hbytes
  refine ⟨fun hcase => ?_, fun _ => ⟨ks, hproper, hbytes⟩⟩
  rw [hbytes, hwhole hcase]
  rfl

end Sys2Proof.Machine
end

section
/-! PROOFS. The machine with its reference slaves (R170): a step with the slave's reaction, and what the reactions make
of a released unit's registers. -/

namespace Sys2Proof.Machine

/-! ## Steps with slaves -/

section
variable {p : Params}

theorem runSlaved_succ (k : Nat) {x y : Slaved} (h : stepSlaved p x = .next y) :
    runSlaved p (k + 1) x = runSlaved p k y := by
  simp only [runSlaved, h]

theorem runSlaved_add (m k : Nat) {x y : Slaved} (h : runSlaved p m x = .next y) :
    runSlaved p (m + k) x = runSlaved p k y := by
  induction m generalizing x with
  | zero => cases h; rw [Nat.zero_add]
  | succ m ih =>
    rw [Nat.add_right_comm]
    simp only [runSlaved] at h ⊢
    cases hs : stepSlaved p x with
    | next x' => simp only [hs] at h ⊢; exact ih h
    | fault f => simp [hs] at h
    | refused r => simp [hs] at h

/-- `n` steps lead from `x` to `y`. -/
def Reaches (p : Params) (n : Nat) (x y : Slaved) : Prop := runSlaved p n x = .next y

theorem Reaches.refl (x : Slaved) : Reaches p 0 x x := rfl

theorem Reaches.trans {m n : Nat} {x y z : Slaved} (h : Reaches p m x y) (h' : Reaches p n y z) :
    Reaches p (m + n) x z :=
  (runSlaved_add m n h).trans h'

theorem Reaches.head {n : Nat} {x y z : Slaved} (h : stepSlaved p x = .next y) (h' : Reaches p n y z) :
    Reaches p (n + 1) x z :=
  (runSlaved_succ n h).trans h'

variable {x : Slaved} (ht : x.machine.turns = []) {t : State}
include ht

/-- A step that is no register access meets no reaction. -/
theorem stepSlaved_internal (hi : x.machine.issue = none) (he : engineStep p x.machine = .next t) :
    stepSlaved p x = .next { x with machine := t } := by
  rw [stepSlaved_engine ht, stepUnskipped, stepWith_engine ht, he, State.pending_engine ht, hi]

/-- A register access meets the reaction of its unit's slave. -/
theorem stepSlaved_access {i : Instr} (hi : x.machine.issue = some i) (he : engineStep p x.machine = .next t)
    {sl : RefSlave} {t' : State} (hr : (x.slaves.get x.machine.w.u).react x.machine.w.u i t = (sl, t')) :
    stepSlaved p x = .next { slaves := x.slaves.set x.machine.w.u sl, machine := t' } := by
  obtain ⟨a, ha, hu⟩ := State.issue_access hi
  rw [stepSlaved_engine ht, stepUnskipped, stepWith_engine ht, he, State.pending_engine ht, hi]
  simp only [ha, hu, hr]

end

/-- An access that no slave reacts to (R170). -/
def Instr.unheard (i : Instr) : Bool :=
  match i with
  | .assertStart _ | .assertStop _ | .writeTx _ _ | .readRx _ => false
  | _ => true

theorem RefSlave.react_unheard (sl : RefSlave) (u : UnitId) {i : Instr} (t : State) (h : Instr.unheard i = true) :
    sl.react u i t = (sl, t) := by
  cases i
  case assertStart | assertStop | writeTx | readRx => cases h
  all_goals rfl

section
variable {p : Params} {n : Nat} {x₀ x : Slaved} {t : State} (h : Reaches p n x₀ x)
include h

theorem Reaches.snoc {y : Slaved} (hs : stepSlaved p x = .next y) : Reaches p (n + 1) x₀ y :=
  h.trans (.head hs (.refl y))

variable (ht : x.machine.turns = [])
include ht

/-- A step that is no register access follows. -/
theorem Reaches.internal (hi : x.machine.issue = none) (he : engineStep p x.machine = .next t) :
    Reaches p (n + 1) x₀ { x with machine := t } :=
  h.snoc (stepSlaved_internal ht hi he)

/-- An access that no slave reacts to follows. -/
theorem Reaches.unheard {i : Instr} (hi : x.machine.issue = some i) (he : engineStep p x.machine = .next t)
    (hu : Instr.unheard i = true := by rfl) : Reaches p (n + 1) x₀ { x with machine := t } := by
  have hs := stepSlaved_access ht hi he (RefSlave.react_unheard _ _ t hu)
  rw [PerUnit.set_get] at hs
  exact h.snoc hs

/-- An access and its reaction follow. -/
theorem Reaches.heard {i : Instr} (hi : x.machine.issue = some i) (he : engineStep p x.machine = .next t)
    {sl : RefSlave} {t' : State} (hr : (x.slaves.get x.machine.w.u).react x.machine.w.u i t = (sl, t')) :
    Reaches p (n + 1) x₀ { slaves := x.slaves.set x.machine.w.u sl, machine := t' } :=
  h.snoc (stepSlaved_access ht hi he hr)

end

/-- Steps without a register access are the same with slaves. -/
theorem reaches_of_untraced {p : Params} {n : Nat} {s t : State} (ht : s.turns = []) (hrun : runWith p n s = .next t)
    (htrace : traceWith p n s = []) (slaves : PerUnit RefSlave) :
    Reaches p n { slaves := slaves, machine := s } { slaves := slaves, machine := t } := by
  induction n generalizing s with
  | zero =>
    cases hrun
    exact .refl _
  | succ n ih =>
    obtain ⟨s', he⟩ := engineStep_total p s
    have hstep := (stepWith_engine ht).trans he
    have hi : s.issue = none := by
      cases hi : s.issue with
      | none => rfl
      | some i => rw [traceWith_access p n hstep ((State.pending_engine ht).trans hi)] at htrace; cases htrace
    rw [traceWith_internal p n hstep ((State.pending_engine ht).trans hi)] at htrace
    exact .head (stepSlaved_internal (x := { slaves := slaves, machine := s }) ht hi he)
      (ih ((engineStep_turns he).trans ht) ((runWith_succ p n hstep).symm.trans hrun) htrace)

/-- A reaction to an access leaves the registers it makes of the access's. -/
theorem State.setRegs_setSt_setRegs (s : State) (u : UnitId) (r r' : UnitRegs) (e : EngineState) :
    ((s.setRegs u r).setSt e).setRegs u r' = (s.setRegs u r').setSt e := by
  simp [State.setRegs, State.setSt]

theorem State.setRegs_setSt_regs (s : State) (u : UnitId) (r : UnitRegs) (e : EngineState) :
    ((s.setRegs u r).setSt e).regs u = r := by
  rw [State.setSt_regs, State.setRegs_regs]

/-! ## What the reactions look at -/

/-- The bits and the buffer of a unit that its slave's reactions and the polls of EXECUTE look at. -/
structure Flags where
  held : Bool
  configured : Bool
  tr : Bool
  txstp : Bool
  txstt : Bool
  nack : Bool
  txrdy : Bool
  rxrdy : Bool
  rxbuf : Byte

def UnitRegs.flags (r : UnitRegs) : Flags :=
  { held := r.ctl1.getLsbD 0, configured := r.configured, tr := r.ctl1.getLsbD 4, txstp := r.ctl1.getLsbD 2,
    txstt := r.ctl1.getLsbD 1, nack := r.ifg.getLsbD 2, txrdy := r.ifg.getLsbD 1, rxrdy := r.ifg.getLsbD 0,
    rxbuf := r.rxbuf }

/-- The unit is released and configured, so its bus agent has moves (R160). -/
structure Flags.Live (f : Flags) : Prop where
  held : f.held = false
  configured : f.configured = true

theorem UnitRegs.swrst_of_live {r : UnitRegs} (h : r.flags.Live) : r.swrst = false := h.held

theorem UnitRegs.configured_of_live {r : UnitRegs} (h : r.flags.Live) : r.configured = true := h.configured

/-! ### After an access of the engine -/

section
variable (r : UnitRegs) (b : Byte)

/-- After WriteSlaveAddr (R110). -/
def UnitRegs.addressed : UnitRegs := { r with sa := b }

/-- After SetTR (R111). -/
def UnitRegs.transmitting : UnitRegs := { r with ctl1 := r.ctl1 ||| 0x10 }

/-- After ClearTR (R112). -/
def UnitRegs.receiving : UnitRegs := { r with ctl1 := r.ctl1 &&& ~~~0x10 }

/-- After AssertStart (R113). -/
def UnitRegs.startRequested : UnitRegs := { r with ctl1 := r.ctl1 ||| 0x02, ifg := r.ifg &&& ~~~nackMask }

/-- After AssertStop (R114). -/
def UnitRegs.stopRequested : UnitRegs := { r with ctl1 := r.ctl1 ||| 0x04 }

/-- After ClearTxRdy (R120). -/
def UnitRegs.txCleared : UnitRegs := { r with ifg := r.ifg &&& ~~~txrdyMask }

/-- After WriteTx (R121). -/
def UnitRegs.written : UnitRegs := { r with txbuf := b, ifg := r.ifg &&& ~~~txrdyMask }

/-- After ReadRx (R122). -/
def UnitRegs.rxRead : UnitRegs := { r with ifg := r.ifg &&& ~~~rxrdyMask }

@[simp] theorem UnitRegs.flags_addressed : (r.addressed b).flags = r.flags := rfl

@[simp] theorem UnitRegs.flags_transmitting : r.transmitting.flags = { r.flags with tr := true } := by
  simp [UnitRegs.transmitting, UnitRegs.flags, UnitRegs.configured]

@[simp] theorem UnitRegs.flags_receiving : r.receiving.flags = { r.flags with tr := false } := by
  simp [UnitRegs.receiving, UnitRegs.flags, UnitRegs.configured]

@[simp] theorem UnitRegs.flags_startRequested :
    r.startRequested.flags = { r.flags with txstt := true, nack := false } := by
  simp [UnitRegs.startRequested, UnitRegs.flags, UnitRegs.configured, nackMask]

@[simp] theorem UnitRegs.flags_stopRequested : r.stopRequested.flags = { r.flags with txstp := true } := by
  simp [UnitRegs.stopRequested, UnitRegs.flags, UnitRegs.configured]

@[simp] theorem UnitRegs.flags_txCleared : r.txCleared.flags = { r.flags with txrdy := false } := by
  simp [UnitRegs.txCleared, UnitRegs.flags, UnitRegs.configured, txrdyMask]

@[simp] theorem UnitRegs.flags_written : (r.written b).flags = { r.flags with txrdy := false } := r.flags_txCleared

@[simp] theorem UnitRegs.flags_rxRead : r.rxRead.flags = { r.flags with rxrdy := false } := by
  simp [UnitRegs.rxRead, UnitRegs.flags, UnitRegs.configured, rxrdyMask]

end

/-! ### After an event -/

/-- An event's effect if it is enabled. -/
def BusEvent.on (e : BusEvent) (r : UnitRegs) : UnitRegs := if e.enabled r = true then e.effect r else r

theorem State.busEvent_on (s : State) (u : UnitId) (e : BusEvent) : s.busEvent u e = s.setRegs u (e.on (s.regs u)) :=
  State.busEvent_eq s u e

section
variable {r : UnitRegs} (h : r.flags.Live)
include h

theorem UnitRegs.flags_startDone : (BusEvent.startDone.on r).flags = { r.flags with txstt := false } := by
  unfold BusEvent.on
  split
  · simp [BusEvent.effect, UnitRegs.clearCtl1, txsttMask, UnitRegs.flags, UnitRegs.configured]
  next hoff =>
    have hflag : r.txstt = false := by
      simpa [BusEvent.enabled, UnitRegs.swrst_of_live h, UnitRegs.configured_of_live h] using hoff
    rw [← hflag]
    rfl

theorem UnitRegs.flags_stopDone : (BusEvent.stopDone.on r).flags = { r.flags with txstp := false } := by
  unfold BusEvent.on
  split
  · simp [BusEvent.effect, UnitRegs.clearCtl1, txstpMask, UnitRegs.flags, UnitRegs.configured]
  next hoff =>
    have hflag : r.txstp = false := by
      simpa [BusEvent.enabled, UnitRegs.swrst_of_live h, UnitRegs.configured_of_live h] using hoff
    rw [← hflag]
    rfl

theorem UnitRegs.flags_nack : (BusEvent.nack.on r).flags = { r.flags with nack := true } := by
  unfold BusEvent.on
  split
  · simp [BusEvent.effect, UnitRegs.setIfg, nackMask, UnitRegs.flags, UnitRegs.configured]
  next hoff =>
    have hflag : r.nack = true := by
      simpa [BusEvent.enabled, UnitRegs.swrst_of_live h, UnitRegs.configured_of_live h] using hoff
    rw [← hflag]
    rfl

theorem UnitRegs.flags_txReady (ht : r.flags.tr = true) :
    (BusEvent.txReady.on r).flags = { r.flags with txrdy := true } := by
  have htr : r.tr = true := ht
  unfold BusEvent.on
  split
  · simp [BusEvent.effect, UnitRegs.setIfg, txrdyMask, UnitRegs.flags, UnitRegs.configured]
  next hoff =>
    have hflag : r.txrdy = true := by
      simpa [BusEvent.enabled, UnitRegs.swrst_of_live h, UnitRegs.configured_of_live h, htr] using hoff
    rw [← hflag]
    rfl

variable (b : Byte) (ht : r.flags.tr = false) (hr : r.flags.rxrdy = false)
include ht hr

theorem BusEvent.rxByte_enabled : (BusEvent.rxByte b).enabled r = true := by
  have htr : r.tr = false := ht
  have hrdy : r.rxrdy = false := hr
  simp [BusEvent.enabled, UnitRegs.swrst_of_live h, UnitRegs.configured_of_live h, htr, hrdy]

theorem UnitRegs.flags_rxByte : ((BusEvent.rxByte b).on r).flags = { r.flags with rxrdy := true, rxbuf := b } := by
  rw [BusEvent.on, if_pos (BusEvent.rxByte_enabled h b ht hr)]
  simp [BusEvent.effect, UnitRegs.setIfg, rxrdyMask, UnitRegs.flags, UnitRegs.configured]

end

/-! ### After an access and its reaction -/

section
variable {r : UnitRegs} (h : r.flags.Live)
include h

theorem UnitRegs.flags_started :
    (BusEvent.startDone.on r.startRequested).flags = { r.flags with txstt := false, nack := false } := by
  rw [UnitRegs.flags_startDone (by rw [UnitRegs.flags_startRequested]; exact ⟨h.held, h.configured⟩),
    UnitRegs.flags_startRequested]

theorem UnitRegs.live_started : (BusEvent.startDone.on r.startRequested).flags.Live := by
  rw [UnitRegs.flags_started h]
  exact ⟨h.held, h.configured⟩

/-- A START whose address is not acknowledged (R170). -/
theorem UnitRegs.flags_start_refused :
    (BusEvent.nack.on (BusEvent.startDone.on r.startRequested)).flags =
      { r.flags with txstt := false, nack := true } := by
  rw [UnitRegs.flags_nack (UnitRegs.live_started h), UnitRegs.flags_started h]

/-- A START of a transmission whose address is acknowledged (R170). -/
theorem UnitRegs.flags_start_ready (ht : r.flags.tr = true) :
    (BusEvent.txReady.on (BusEvent.startDone.on r.startRequested)).flags =
      { r.flags with txstt := false, nack := false, txrdy := true } := by
  rw [UnitRegs.flags_txReady (UnitRegs.live_started h) (by rw [UnitRegs.flags_started h]; exact ht),
    UnitRegs.flags_started h]

/-- A byte written and acknowledged (R170). -/
theorem UnitRegs.flags_written_ready (b : Byte) (ht : r.flags.tr = true) :
    (BusEvent.txReady.on (r.written b)).flags = { r.flags with txrdy := true } := by
  have hw := r.flags_written b
  rw [UnitRegs.flags_txReady (by rw [hw]; exact ⟨h.held, h.configured⟩) (by rw [hw]; exact ht), hw]

/-- A STOP requested and done (R170). -/
theorem UnitRegs.flags_stopped : (BusEvent.stopDone.on r.stopRequested).flags = { r.flags with txstp := false } := by
  have hw := r.flags_stopRequested
  rw [UnitRegs.flags_stopDone (by rw [hw]; exact ⟨h.held, h.configured⟩), hw]

end

/-! ## The reactions -/

section
variable {sl : RefSlave} {u : UnitId} {t : State} {r : UnitRegs} (hr : t.regs u = r)

/-- A slave that has seen a START more (R170). -/
def RefSlave.seenStart (sl : RefSlave) : RefSlave :=
  { sl with starts := sl.starts + 1, since := 0, stopped := false }

/-- A slave that has seen a byte more (R170). -/
def RefSlave.seenByte (sl : RefSlave) (b : Byte) : RefSlave :=
  { sl with nbytes := sl.nbytes + 1, since := sl.since + 1, log := sl.log ++ [b] }

/-- A slave that has seen a STOP more (R170). -/
def RefSlave.seenStop (sl : RefSlave) : RefSlave := { sl with stopped := true, stops := sl.stops + 1 }

/-- A slave that has sent a byte more (R170). -/
def RefSlave.sentByte (sl : RefSlave) : RefSlave := { sl with ri := sl.ri + 1 }

include hr

theorem RefSlave.onStart_refused (ha : sl.addrAck (sl.starts + 1) = false) :
    sl.onStart u t = (sl.seenStart, t.setRegs u (BusEvent.nack.on (BusEvent.startDone.on r))) := by
  simp [RefSlave.onStart, RefSlave.seenStart, ha, State.busEvent_on, hr]

theorem RefSlave.onStart_transmit (ha : sl.addrAck (sl.starts + 1) = true)
    (ht : (BusEvent.startDone.on r).flags.tr = true) :
    sl.onStart u t = (sl.seenStart, t.setRegs u (BusEvent.txReady.on (BusEvent.startDone.on r))) := by
  have htr : (BusEvent.startDone.on r).tr = true := ht
  simp [RefSlave.onStart, RefSlave.seenStart, ha, State.busEvent_on, hr, htr]

theorem RefSlave.onStart_receive (ha : sl.addrAck (sl.starts + 1) = true)
    (ht : (BusEvent.startDone.on r).flags.tr = false) :
    sl.onStart u t = sl.seenStart.deliver u (t.setRegs u (BusEvent.startDone.on r)) := by
  have htr : (BusEvent.startDone.on r).tr = false := ht
  simp [RefSlave.onStart, RefSlave.seenStart, ha, State.busEvent_on, hr, htr]

theorem RefSlave.onWrite_acknowledged (b : Byte) (ha : sl.dataAck (sl.nbytes + 1) (sl.since + 1) = true) :
    sl.onWrite u b t = (sl.seenByte b, t.setRegs u (BusEvent.txReady.on r)) := by
  simp [RefSlave.onWrite, RefSlave.seenByte, ha, State.busEvent_on, hr]

theorem RefSlave.deliver_next {b : Byte} (hb : sl.rx[sl.ri]? = some b) (he : (BusEvent.rxByte b).enabled r = true) :
    sl.deliver u t = (sl.sentByte, t.setRegs u ((BusEvent.rxByte b).on r)) := by
  simp [RefSlave.deliver, RefSlave.sentByte, hb, he, State.busEvent_on, hr]

theorem RefSlave.react_assertStop (v : UnitId) :
    sl.react u (.assertStop v) t = (sl.seenStop, t.setRegs u (BusEvent.stopDone.on r)) := by
  simp [RefSlave.react, RefSlave.seenStop, State.busEvent_on, hr]

end

/-! ## Accesses with their reactions -/

/-- The registers of the unit that the command addresses. -/
def Slaved.regs (x : Slaved) : UnitRegs := x.machine.regs x.machine.w.u

/-- The slave of the unit that the command addresses. -/
def Slaved.slave (x : Slaved) : RefSlave := x.slaves.get x.machine.w.u

/-- The addressed unit with other registers and another slave, and the engine at another place. -/
def Slaved.update (x : Slaved) (r : UnitRegs) (sl : RefSlave) (e : EngineState) : Slaved :=
  { slaves := x.slaves.set x.machine.w.u sl, machine := (x.machine.setRegs x.machine.w.u r).setSt e }

section
variable (x : Slaved) (r : UnitRegs) (sl : RefSlave) (e : EngineState)

@[simp] theorem Slaved.update_regs : (x.update r sl e).regs = r := State.setRegs_setSt_regs ..

@[simp] theorem Slaved.update_slave : (x.update r sl e).slave = sl := PerUnit.get_set_same ..

@[simp] theorem Slaved.update_w : (x.update r sl e).machine.w = x.machine.w := rfl

@[simp] theorem Slaved.update_st : (x.update r sl e).machine.st = e := rfl

@[simp] theorem Slaved.update_mem : (x.update r sl e).machine.mem = x.machine.mem := rfl

@[simp] theorem Slaved.update_turns : (x.update r sl e).machine.turns = x.machine.turns := rfl

@[simp] theorem Slaved.update_update (r' : UnitRegs) (sl' : RefSlave) (e' : EngineState) :
    (x.update r sl e).update r' sl' e' = x.update r' sl' e' := by
  simp [Slaved.update, State.setRegs, State.setSt]

end

section
variable {p : Params} {n : Nat} {x₀ x : Slaved} {r : UnitRegs} {e : EngineState} (h : Reaches p n x₀ x)
  (ht : x.machine.turns = [])
include h ht

/-- An access of the unit's registers that no slave reacts to. -/
theorem Reaches.access {i : Instr} (hi : x.machine.issue = some i)
    (he : engineStep p x.machine = .next ((x.machine.setRegs x.machine.w.u r).setSt e))
    (hu : Instr.unheard i = true := by rfl) : Reaches p (n + 1) x₀ (x.update r x.slave e) := by
  have hs := stepSlaved_access ht hi he (RefSlave.react_unheard _ _ _ hu)
  exact h.snoc hs

/-- An access of the unit's registers and the reaction of its slave, by what the reaction makes of the registers. -/
theorem Reaches.reacted {i : Instr} (hi : x.machine.issue = some i)
    (he : engineStep p x.machine = .next ((x.machine.setRegs x.machine.w.u r).setSt e)) {sl : RefSlave} {r' : UnitRegs}
    (hr : ∀ t : State, t.regs x.machine.w.u = r → x.slave.react x.machine.w.u i t = (sl, t.setRegs x.machine.w.u r')) :
    Reaches p (n + 1) x₀ (x.update r' sl e) := by
  have hs := stepSlaved_access ht hi he (hr _ (State.setRegs_setSt_regs ..))
  rw [State.setRegs_setSt_setRegs] at hs
  exact h.snoc hs

end

/-! ## S_START with a message, up to its START (R131) -/

theorem Reaches.addressed {p : Params} {n : Nat} {x₀ x : Slaved} (h : Reaches p n x₀ x) (ht : x.machine.turns = [])
    (hst : x.machine.st = .startAddr) (hlen : 0 < x.machine.w.d.outLen) :
    ∃ r : UnitRegs, r.flags = { x.regs.flags with tr := true } ∧
      Reaches p (n + 2) x₀ (x.update r x.slave .startStt) := by
  have haddr := engineStep_startAddr p hst
  rw [if_pos hlen] at haddr
  have h1 := h.access (r := x.regs.addressed _) ht
    (State.issue_of_issues (i := .writeSlaveAddr _ _) ⟨rfl, hst, rfl⟩) haddr
  have h2 := h1.access (r := (Slaved.regs _).transmitting) ht rfl (engineStep_startTr p rfl)
  rw [Slaved.update_update, Slaved.update_slave, Slaved.update_regs] at h2
  exact ⟨(x.regs.addressed (lowByte x.machine.w.d.slaveAddress)).transmitting, UnitRegs.flags_transmitting _, h2⟩

end Sys2Proof.Machine
end

section
/-! PROOFS. A slave that acknowledges no address ends an EXECUTE with a message in the abort (R135, R137, R171). -/

namespace Sys2Proof.Machine

/-- `NackAll`, whatever it would do with data (R171; log entry 20), after `n` STARTs. -/
def RefSlave.refusing (dataAck : Nat → Nat → Bool) (rx : List Byte) (n : Nat) (stopped : Bool) : RefSlave :=
  { RefSlave.new (fun _ => false) dataAck rx with starts := n, stopped := stopped }

/-- EXECUTE is in S_TX with `n` NACKs counted and the next one to be observed. -/
structure Refused (dataAck : Nat → Nat → Bool) (rx : List Byte) (n : Nat) (x : Slaved) : Prop where
  turns : x.machine.turns = []
  st : x.machine.st = .txPoll
  count : x.machine.w.nackCount = BitVec.ofNat 8 n
  live : x.regs.flags.Live
  txrdy : x.regs.flags.txrdy = false
  nack : x.regs.flags.nack = true
  slave : x.slave = RefSlave.refusing dataAck rx (n + 1) false

section
variable {p : Params} {dataAck : Nat → Nat → Bool} {rx : List Byte} {n k : Nat} {x₀ x : Slaved}

/-- An AssertStart that the slave refuses leads to S_TX with a NACK to be observed (R113, R170). -/
theorem Reaches.refused (h : Reaches p k x₀ x) {stopped : Bool} (ht : x.machine.turns = [])
    (hi : x.machine.issue = some (.assertStart x.machine.w.u))
    (he : engineStep p x.machine = .next ((x.machine.setRegs x.machine.w.u x.regs.startRequested).setSt .txPoll))
    (hlive : x.regs.flags.Live) (htx : x.regs.flags.txrdy = false) (hn : x.machine.w.nackCount = BitVec.ofNat 8 n)
    (hsl : x.slave = RefSlave.refusing dataAck rx n stopped) :
    ∃ y, Reaches p (k + 1) x₀ y ∧ y.machine.w.u = x.machine.w.u ∧ Refused dataAck rx n y := by
  have hy := h.reacted ht hi he fun t hr => RefSlave.onStart_refused hr (by rw [hsl]; rfl)
  have hflags := UnitRegs.flags_start_refused hlive
  refine ⟨_, hy, rfl, ht, rfl, hn, ?_, ?_, ?_, ?_⟩
  · rw [Slaved.update_regs, hflags]
    exact ⟨hlive.held, hlive.configured⟩
  · rw [Slaved.update_regs, hflags]
    exact htx
  · rw [Slaved.update_regs, hflags]
  · rw [Slaved.update_slave, hsl]
    rfl

/-- EXECUTE with a message, up to its first NACK (R131). -/
theorem reaches_refused (ht : x.machine.turns = []) (hst : x.machine.st = .startAddr)
    (hlen : 0 < x.machine.w.d.outLen) (hlive : x.regs.flags.Live) (htx : x.regs.flags.txrdy = false)
    (hn : x.machine.w.nackCount = 0) (hsl : x.slave = RefSlave.refusing dataAck rx 0 true) :
    ∃ y, Reaches p 3 x y ∧ y.machine.w.u = x.machine.w.u ∧ Refused dataAck rx 0 y := by
  obtain ⟨r, hr, hopen⟩ := (Reaches.refl (p := p) x).addressed ht hst hlen
  refine hopen.refused ht rfl (engineStep_startStt p rfl) ?_ ?_ hn (stopped := true) ?_
  · rw [Slaved.update_regs, hr]
    exact ⟨hlive.held, hlive.configured⟩
  · rw [Slaved.update_regs, hr]
    exact htx
  · rw [Slaved.update_slave, hsl]

/-- A NACK observed below the limit leads to the next START and NACK (R135). -/
theorem Refused.retry (h : Refused dataAck rx n x) (hn : n + 1 < 10) :
    ∃ y, Reaches p 3 x y ∧ y.machine.w.u = x.machine.w.u ∧ Refused dataAck rx (n + 1) y := by
  obtain ⟨ht, hst, hcount, hlive, htx, hnack, hsl⟩ := h
  have hlt : x.machine.w.nackCount.toNat + 1 < 10 := by
    rw [hcount, BitVec.toNat_ofNat]
    omega
  have hsucc : x.machine.w.nackCount + 1 = BitVec.ofNat 8 (n + 1) := by
    rw [hcount, BitVec.ofNat_add]
    rfl
  have hpolls := (Reaches.refl x).unheard ht (State.issue_of_issues (i := .readTxRdy _) ⟨rfl, hst⟩)
    (engineStep_txPoll_waiting p hst htx) |>.unheard ht rfl (engineStep_txNack_retry p rfl hnack hlt)
  exact hpolls.refused ht rfl (engineStep_txRestart p rfl) hlive htx hsucc hsl

/-- The START, and `n` retries. -/
theorem Refused.retries (h : Refused dataAck rx 0 x) (hn : n < 10) :
    ∃ y, Reaches p (3 * n) x y ∧ y.machine.w.u = x.machine.w.u ∧ Refused dataAck rx n y := by
  induction n with
  | zero => exact ⟨x, .refl x, rfl, h⟩
  | succ n ih =>
    obtain ⟨y, hy, hu, hrefused⟩ := ih (by omega)
    obtain ⟨z, hz, hu', hrefused'⟩ := hrefused.retry (p := p) hn
    exact ⟨z, hy.trans hz, hu'.trans hu, hrefused'⟩

/-- The tenth NACK observed ends the command (R137). -/
theorem Refused.abort (h : Refused dataAck rx 9 x) {u : UnitId} (hu : x.machine.w.u = u) :
    ∃ y, Reaches p 5 x y ∧ y.machine.result = 4 ∧ y.machine.st = .idle ∧ y.machine.busy = false ∧
      y.machine.w.nackCount = 10 ∧ y.machine.active.get u = false ∧ (y.machine.regs u).swrst = true ∧
      (y.slaves.get u).starts = 10 ∧ (y.slaves.get u).stops = 1 ∧ (y.slaves.get u).log = [] := by
  subst hu
  obtain ⟨ht, hst, hcount, hlive, htx, hnack, hsl⟩ := h
  have hend := (Reaches.refl x).unheard ht (State.issue_of_issues (i := .readTxRdy _) ⟨rfl, hst⟩)
      (engineStep_txPoll_waiting p hst htx) |>.unheard ht rfl (engineStep_txNack_limit p rfl hnack hcount)
    |>.reacted ht rfl (engineStep_txStop p rfl) (fun t hr => RefSlave.react_assertStop hr _)
    |>.unheard ht rfl (engineStep_txDisable p rfl) |>.internal ht rfl (engineStep_txRaise p rfl)
  have hslave := (PerUnit.get_set_same x.slaves x.machine.w.u _).trans (congrArg RefSlave.seenStop hsl)
  refine ⟨_, hend, rfl, rfl, rfl, rfl, ?_, ?_, congrArg RefSlave.starts hslave, congrArg RefSlave.stops hslave,
    congrArg RefSlave.log hslave⟩
  · exact PerUnit.get_set_same ..
  · exact (congrArg UnitRegs.swrst (PerUnit.get_set_same ..)).trans (UnitRegs.held_swrst _)

end

/-- An active unit amid no ACTIVATE is released and configured (R13, R27). -/
theorem State.live_of_active {s : State} {u : UnitId} (hok : s.unitOk u = true) (ha : s.active.get u = true)
    (hst : ∀ k, s.st ≠ .act k) : (s.regs u).flags.Live := by
  obtain ⟨hrelease, -, hset⟩ := (State.unitOk_iff_agrees (.inl (State.activating_none u hst))).1 hok
  rw [ha] at hrelease
  have hswrst : (s.regs u).swrst = false := by simpa using hrelease.symm
  refine ⟨hswrst, ?_⟩
  show (s.regs u).configured = true
  rw [UnitRegs.configured, (hset ha).1]
  rfl

/-- Settles O57: the first START, nine retries and the abort. -/
theorem nackAllSlaveEndsInTheAbort : Obligations.NackAllSlaveEndsInTheAbort := by
  intro prm s other dataAck rx ht hok hunit hst hlen htx u
  have hplace := (State.placeOk_iff s).1 hok
  rw [hst] at hplace
  obtain ⟨hactive, -, -, hcount⟩ := hplace
  have hlive := State.live_of_active hunit hactive (fun k => by rw [hst]; nofun)
  let slaves : PerUnit RefSlave := { primary := other, secondary := other }
  let x : Slaved := { slaves := slaves.set u (RefSlave.new (fun _ => false) dataAck rx), machine := s }
  obtain ⟨x1, hstart, hu1, h1⟩ := reaches_refused (p := prm) (x := x) ht hst hlen hlive htx hcount
    (dataAck := dataAck) (rx := rx) (PerUnit.get_set_same ..)
  obtain ⟨x2, hretries, hu2, h2⟩ := h1.retries (p := prm) (n := 9) (by omega)
  obtain ⟨y, habort, hy⟩ := h2.abort (p := prm) (hu2.trans hu1)
  exact ⟨y, (hstart.trans hretries).trans habort, hy⟩

end Sys2Proof.Machine
end

section
/-! PROOFS. The transmit phase with a slave that acknowledges everything (R131 to R133, R170, R171). -/

namespace Sys2Proof.Machine

/-! ## The transmit phase -/

/-- A slave that acknowledges everything, has sent none of its bytes `rx` and has seen no STOP. -/
structure RefSlave.Acks (sl : RefSlave) (rx : List Byte) : Prop where
  addrAck : ∀ k, sl.addrAck k = true
  dataAck : ∀ j k, sl.dataAck j k = true
  rx : sl.rx = rx
  ri : sl.ri = 0
  stops : sl.stops = 0

/-- EXECUTE started in `s₀` has sent the first `i` bytes of its message, after `starts` STARTs. -/
structure SentBytes (s₀ : State) (rx : List Byte) (starts : Nat) (i : Half) (x : Slaved) : Prop where
  turns : x.machine.turns = []
  w : x.machine.w = { s₀.w with txIndex := i, nackCount := 0 }
  mem : x.machine.mem = s₀.mem
  live : x.regs.flags.Live
  rxrdy : x.regs.flags.rxrdy = (s₀.regs s₀.w.u).flags.rxrdy
  acks : x.slave.Acks rx
  starts : x.slave.starts = starts
  log : x.slave.log = s₀.message.take i.toNat

/-- The unit transmits and asks for a byte. -/
structure UnitRegs.Asks (r : UnitRegs) : Prop where
  tr : r.flags.tr = true
  txrdy : r.flags.txrdy = true

theorem State.setRegs_afterWrite_setRegs (s : State) (u : UnitId) (r r' : UnitRegs) :
    ((s.setRegs u r).afterWrite).setRegs u r' = (s.setRegs u r').afterWrite :=
  congrArg (fun us => { s.afterWrite with units := us }) (PerUnit.set_set ..)

section
variable {p : Params} {s₀ : State} {rx : List Byte} {starts n : Nat} {i : Half} {x x₀ : Slaved}

/-- A WriteTx that the slave acknowledges (R121, R133, R170). -/
theorem Reaches.written (h : Reaches p n x₀ x) (ht : x.machine.turns = []) (hst : x.machine.st = .txWrite)
    (hacks : x.slave.Acks rx) :
    Reaches p (n + 1) x₀
      { slaves := x.slaves.set x.machine.w.u (x.slave.seenByte x.machine.ret)
        machine := (x.machine.setRegs x.machine.w.u (BusEvent.txReady.on (x.regs.written x.machine.ret))).afterWrite } := by
  have hreact := RefSlave.onWrite_acknowledged (sl := x.slave) (u := x.machine.w.u)
    (t := (x.machine.setRegs x.machine.w.u (x.regs.written x.machine.ret)).afterWrite)
    (r := x.regs.written x.machine.ret) (PerUnit.get_set_same ..) x.machine.ret (hacks.dataAck _ _)
  have hreach := h.heard ht (State.issue_of_issues (i := .writeTx _ _) ⟨rfl, hst, rfl⟩) (engineStep_txWrite p hst)
    hreact
  rwa [State.setRegs_afterWrite_setRegs] at hreach

/-- A byte is polled, fetched, written and acknowledged (R133, R170). -/
theorem SentBytes.write (h : SentBytes s₀ rx starts i x) (hst : x.machine.st = .txPoll) (hr : x.regs.Asks)
    (hi : i < s₀.w.d.outLen) :
    ∃ y, Reaches p 3 x y ∧ y.machine.st = (if i + 1 = s₀.w.d.outLen then .txClear else .txPoll) ∧ y.regs.Asks ∧
      SentBytes s₀ rx starts (i + 1) y := by
  obtain ⟨ht, hw, hmem, hlive, hrx, hacks, hstarts, hlog⟩ := h
  let b := x.machine.memRead (txAddr x.machine.w)
  have hb : b = s₀.memRead (s₀.w.d.outPtr + i) := by
    show Memory.readAt x.machine.mem (txAddr x.machine.w).toNat = _
    rw [hmem, hw]
    rfl
  have hreach := (Reaches.refl x).unheard ht (State.issue_of_issues (i := .readTxRdy _) ⟨rfl, hst⟩)
    (engineStep_txPoll_ready p hst hr.txrdy) |>.internal ht rfl (engineStep_txFetch p rfl)
    |>.written ht rfl hacks
  have hflags := UnitRegs.flags_written_ready hlive b hr.tr
  generalize hy : Slaved.mk _ _ = y at hreach
  have hst' : y.machine.st = if x.machine.w.txIndex + 1 = x.machine.w.d.outLen then .txClear else .txPoll := hy ▸ rfl
  rw [hw] at hst'
  have hregs : y.regs = BusEvent.txReady.on (x.regs.written b) := hy ▸ PerUnit.get_set_same ..
  have hslave : y.slave = x.slave.seenByte b := hy ▸ PerUnit.get_set_same ..
  have hw' : y.machine.w = { x.machine.w with nackCount := 0, txIndex := x.machine.w.txIndex + 1 } := hy ▸ rfl
  rw [← hregs] at hflags
  refine ⟨y, hreach, hst', ⟨by rw [hflags]; exact hr.tr, by rw [hflags]⟩, hy ▸ ht, by rw [hw', hw],
    hy ▸ hmem, ?_, ?_, ?_, ?_, ?_⟩
  · exact hflags ▸ ⟨hlive.held, hlive.configured⟩
  · exact hflags ▸ hrx
  · exact hslave ▸ ⟨hacks.addrAck, hacks.dataAck, hacks.rx, hacks.ri, hacks.stops⟩
  · exact hslave ▸ hstarts
  · rw [State.message_take_succ s₀ hi, ← hb, hslave, ← hlog]
    rfl

/-- From the first byte asked for, the message is sent (R133). -/
theorem SentBytes.all (h : SentBytes s₀ rx starts i x) (hst : x.machine.st = .txPoll) (hr : x.regs.Asks)
    (hi : i < s₀.w.d.outLen) :
    ∃ n y, Reaches p n x y ∧ y.machine.st = .txClear ∧ SentBytes s₀ rx starts s₀.w.d.outLen y := by
  induction hk : s₀.w.d.outLen.toNat - i.toNat generalizing i x with
  | zero =>
    have hlt : i.toNat < s₀.w.d.outLen.toNat := hi
    omega
  | succ k ih =>
    obtain ⟨y, hreach, hst', hr', hy⟩ := h.write (p := p) hst hr hi
    by_cases hlast : i + 1 = s₀.w.d.outLen
    · rw [if_pos hlast] at hst'
      exact ⟨3, y, hreach, hst', hlast ▸ hy⟩
    · rw [if_neg hlast] at hst'
      obtain ⟨n, z, hz, hst'', hsent⟩ := ih hy hst' hr' (index_succ_lt hi hlast) (by bv_omega)
      exact ⟨3 + n, z, hreach.trans hz, hst'', hsent⟩

/-- The flags that the later phases need are kept, and so is what the slave has seen. -/
theorem SentBytes.update (h : SentBytes s₀ rx starts i x) {r : UnitRegs} (e : EngineState)
    (hlive : r.flags.Live) (hrx : r.flags.rxrdy = x.regs.flags.rxrdy) :
    SentBytes s₀ rx starts i (x.update r x.slave e) := by
  obtain ⟨ht, hw, hmem, -, hrx', hacks, hstarts, hlog⟩ := h
  refine ⟨ht, hw, hmem, ?_, ?_, ?_, ?_, ?_⟩
  · rwa [Slaved.update_regs]
  · rw [Slaved.update_regs, hrx, hrx']
  all_goals rwa [Slaved.update_slave]

/-- After the last byte the flag is cleared (R132, R133). -/
theorem SentBytes.clear (h : SentBytes s₀ rx starts s₀.w.d.outLen x) (hst : x.machine.st = .txClear) :
    ∃ y, Reaches p 1 x y ∧ y.machine.st = afterTransmit s₀.w ∧ SentBytes s₀ rx starts s₀.w.d.outLen y := by
  have hreach := (Reaches.refl x).access (r := x.regs.txCleared) h.turns
    (State.issue_of_issues (i := .clearTxRdy _) ⟨rfl, .inl hst⟩) (engineStep_txClear p hst)
  have hflags := x.regs.flags_txCleared
  refine ⟨_, hreach, (congrArg afterTransmit h.w).trans rfl, h.update _ ?_ ?_⟩
  · exact hflags ▸ ⟨h.live.held, h.live.configured⟩
  · rw [hflags]

/-- S_START with a message: the address is acknowledged, and the unit asks for the first byte (R131, R170). -/
theorem SentBytes.start (h : SentBytes s₀ rx 0 0 x) (hst : x.machine.st = .startAddr) (hlen : 0 < s₀.w.d.outLen) :
    ∃ y, Reaches p 3 x y ∧ y.machine.st = .txPoll ∧ y.regs.Asks ∧ SentBytes s₀ rx 1 0 y := by
  obtain ⟨ht, hw, hmem, hlive, hrx, hacks, hstarts, hlog⟩ := h
  obtain ⟨r, hr, hopen⟩ := (Reaches.refl (p := p) x).addressed ht hst (by rw [hw]; exact hlen)
  have hlive' : r.flags.Live := hr ▸ ⟨hlive.held, hlive.configured⟩
  have htr : r.flags.tr = true := by rw [hr]
  have hreach := hopen.reacted ht rfl (engineStep_startStt p rfl) fun t hreg =>
    RefSlave.onStart_transmit (r := (Slaved.regs _).startRequested) hreg
      (by rw [Slaved.update_slave]; exact hacks.addrAck _)
      (by rw [Slaved.update_regs, UnitRegs.flags_started hlive']; exact htr)
  rw [Slaved.update_update, Slaved.update_regs, Slaved.update_slave] at hreach
  have hflags := UnitRegs.flags_start_ready hlive' htr
  rw [hr] at hflags
  refine ⟨_, hreach, rfl, ⟨?_, ?_⟩, ht, hw, hmem, ?_, ?_, ?_, ?_, ?_⟩
  · rw [Slaved.update_regs, hflags]
  · rw [Slaved.update_regs, hflags]
  · rw [Slaved.update_regs, hflags]
    exact ⟨hlive.held, hlive.configured⟩
  · rw [Slaved.update_regs, hflags]
    exact hrx
  · rw [Slaved.update_slave]
    exact ⟨hacks.addrAck, hacks.dataAck, hacks.rx, hacks.ri, hacks.stops⟩
  · rw [Slaved.update_slave]
    exact congrArg (· + 1) hstarts
  · rw [Slaved.update_slave]
    exact hlog

/-- Either way EXECUTE has sent its message, and is at S_PREP_RX or S_STOP (R131, R132). -/
theorem SentBytes.phase (h : SentBytes s₀ rx 0 0 x) (hst : x.machine.st = .startAddr) :
    ∃ n y, Reaches p n x y ∧ y.machine.st = afterTransmit s₀.w ∧
      SentBytes s₀ rx (if 0 < s₀.w.d.outLen then 1 else 0) s₀.w.d.outLen y := by
  have haddr := engineStep_startAddr p hst
  by_cases hlen : 0 < s₀.w.d.outLen
  · obtain ⟨x1, h1, hst1, hr, hs1⟩ := h.start (p := p) hst hlen
    obtain ⟨n, x2, h2, hst2, hs2⟩ := hs1.all (p := p) hst1 hr hlen
    obtain ⟨y, h3, hst3, hs3⟩ := hs2.clear (p := p) hst2
    rw [if_pos hlen]
    exact ⟨_, y, (h1.trans h2).trans h3, hst3, hs3⟩
  · have hzero : s₀.w.d.outLen = 0 := BitVec.le_zero_iff.1 (BitVec.not_lt.1 hlen)
    rw [if_neg (by rw [h.w]; exact hlen)] at haddr
    have hreach := (Reaches.refl x).access (r := x.regs.addressed _) h.turns
      (State.issue_of_issues (i := .writeSlaveAddr _ _) ⟨rfl, hst, rfl⟩) haddr
    rw [if_neg hlen, hzero]
    exact ⟨1, _, hreach, (congrArg afterTransmit h.w).trans rfl, h.update _ h.live rfl⟩

end

end Sys2Proof.Machine
end

section
/-! PROOFS. The receive phase with a slave that acknowledges its address and has the bytes, and the end of an EXECUTE
(R138 to R146, R170). -/

namespace Sys2Proof.Machine

/-! ## Bytes that a slave sends -/

/-- What `Deliver`, or no reaction, makes of a slave and of registers that can take a byte: before a STOP the next byte
arrives, if there is one (R170). -/
structure RefSlave.Delivered (sl : RefSlave) (r : UnitRegs) (sl' : RefSlave) (r' : UnitRegs) : Prop where
  live : r'.flags.Live
  tr : r'.flags.tr = false
  txstt : r'.flags.txstt = r.flags.txstt
  rx : sl'.rx = sl.rx
  stopped : sl'.stopped = sl.stopped
  stops : sl'.stops = sl.stops
  byte : sl.stopped = false → ∀ b, sl.rx[sl.ri]? = some b →
    r'.flags.rxrdy = true ∧ r'.flags.rxbuf = b ∧ sl'.ri = sl.ri + 1

section
variable {r : UnitRegs} (hlive : r.flags.Live) (htr : r.flags.tr = false) (hrdy : r.flags.rxrdy = false)
include hlive htr hrdy

theorem RefSlave.deliver_delivered (sl : RefSlave) (u : UnitId) : ∃ sl' r', sl.Delivered r sl' r' ∧
    ∀ t : State, t.regs u = r → sl.deliver u t = (sl', t.setRegs u r') := by
  cases hb : sl.rx[sl.ri]? with
  | none =>
    refine ⟨sl, r, ⟨hlive, htr, rfl, rfl, rfl, rfl, fun _ b h => ?_⟩, fun t ht => ?_⟩
    · rw [hb] at h
      cases h
    · rw [← ht, State.setRegs_self, RefSlave.deliver, hb]
  | some b =>
    have hflags := UnitRegs.flags_rxByte hlive b htr hrdy
    refine ⟨sl.sentByte, (BusEvent.rxByte b).on r, ⟨?_, ?_, ?_, rfl, rfl, rfl, fun _ c h => ?_⟩,
      fun t ht => RefSlave.deliver_next ht hb (BusEvent.rxByte_enabled hlive b htr hrdy)⟩
    · exact hflags ▸ ⟨hlive.held, hlive.configured⟩
    · exact hflags ▸ htr
    · rw [hflags]
    · obtain rfl : b = c := by rw [hb] at h; exact Option.some.inj h
      rw [hflags]
      exact ⟨rfl, rfl, rfl⟩

theorem RefSlave.readRx_delivered (sl : RefSlave) (u v : UnitId) : ∃ sl' r', sl.Delivered r sl' r' ∧
    ∀ t : State, t.regs u = r → sl.react u (.readRx v) t = (sl', t.setRegs u r') := by
  cases hs : sl.stopped with
  | true =>
    refine ⟨sl, r, ⟨hlive, htr, rfl, rfl, rfl, rfl, fun h => ?_⟩, fun t ht => ?_⟩
    · rw [hs] at h
      cases h
    · rw [← ht, State.setRegs_self, RefSlave.react, if_pos hs]
  | false =>
    obtain ⟨sl', r', hd, hdeliver⟩ := RefSlave.deliver_delivered hlive htr hrdy sl u
    refine ⟨sl', r', hd, fun t ht => ?_⟩
    rw [RefSlave.react, if_neg (by rw [hs]; nofun), hdeliver t ht]

theorem RefSlave.assertStart_delivered (sl : RefSlave) (ha : sl.addrAck (sl.starts + 1) = true) (u v : UnitId) :
    ∃ sl' r', sl.seenStart.Delivered (BusEvent.startDone.on r.startRequested) sl' r' ∧
      ∀ t : State, t.regs u = r.startRequested → sl.react u (.assertStart v) t = (sl', t.setRegs u r') := by
  have hflags := UnitRegs.flags_started hlive
  have htr' : (BusEvent.startDone.on r.startRequested).flags.tr = false := by rw [hflags]; exact htr
  obtain ⟨sl', r', hd, hdeliver⟩ := RefSlave.deliver_delivered (UnitRegs.live_started hlive) htr'
    (by rw [hflags]; exact hrdy) sl.seenStart u
  refine ⟨sl', r', hd, fun t ht => ?_⟩
  rw [RefSlave.react, RefSlave.onStart_receive ht ha htr', hdeliver _ (State.setRegs_regs ..), State.setRegs_setRegs]

end

/-! ## The receive phase -/

/-- EXECUTE started in `s₀` has stored the first `i` of the slave's bytes `rx`, and the next one waits in the unit;
`early`: S_WAIT_STT has requested the STOP (R139). -/
structure Receiving (s₀ : State) (rx : List Byte) (early : Bool) (i : Half) (x : Slaved) : Prop where
  turns : x.machine.turns = []
  d : x.machine.w.d = s₀.w.d
  unit : x.machine.w.u = s₀.w.u
  index : x.machine.w.rxIndex = i
  issued : x.machine.w.stopIssued = early
  mem : x.machine.mem = (s₀.writes (writesAt s₀.w.d.respPtr (rx.take i.toNat))).mem
  live : x.regs.flags.Live
  tr : x.regs.flags.tr = false
  bytes : x.slave.rx = rx
  stopped : x.slave.stopped = early
  stops : x.slave.stops = if early then 1 else 0
  single : early = true → s₀.w.d.respLen = 1
  byte : i < s₀.w.d.respLen → x.regs.flags.rxrdy = true ∧ rx[i.toNat]? = some x.regs.flags.rxbuf
  sent : early = false → i < s₀.w.d.respLen → x.slave.ri = i.toNat + 1

section
variable {p : Params} {s₀ : State} {rx : List Byte} {early : Bool} {starts : Nat} {i : Half} {x : Slaved}

/-- S_PREP_RX turns the unit around (R138). -/
theorem SentBytes.turned (h : SentBytes s₀ rx starts i x) (hst : x.machine.st = .prepTr) :
    ∃ y, Reaches p 2 x y ∧ y.machine.st = .prepStt ∧ y.regs.flags.tr = false ∧ SentBytes s₀ rx starts i y := by
  have hprep := (Reaches.refl (p := p) x).access (r := x.regs.receiving) h.turns
    (State.issue_of_issues (i := .clearTR _) ⟨rfl, hst⟩) (engineStep_prepTr p hst)
  have hclear := hprep.access (r := (Slaved.regs _).txCleared) h.turns
    (State.issue_of_issues (i := .clearTxRdy _) ⟨rfl, .inr rfl⟩) (engineStep_prepClear p rfl)
  rw [Slaved.update_update, Slaved.update_slave, Slaved.update_regs] at hclear
  have hflags : x.regs.receiving.txCleared.flags = { x.regs.flags with tr := false, txrdy := false } := by
    rw [UnitRegs.flags_txCleared, UnitRegs.flags_receiving]
  refine ⟨_, hclear, rfl, ?_, h.update _ ?_ ?_⟩
  · rw [Slaved.update_regs, hflags]
  · exact hflags ▸ ⟨h.live.held, h.live.configured⟩
  · rw [hflags]

/-- The START of the receive phase: the slave acknowledges its address and sends its first byte (R138, R170). -/
theorem SentBytes.receiving (h : SentBytes s₀ rx starts i x) (hst : x.machine.st = .prepStt)
    (htr : x.regs.flags.tr = false) (hfresh : s₀.w.Fresh) (hrdy : (s₀.regs s₀.w.u).flags.rxrdy = false)
    (hlen : s₀.w.d.respLen.toNat ≤ rx.length) :
    ∃ y, Reaches p 1 x y ∧ y.regs.flags.txstt = false ∧ Receiving s₀ rx false 0 y ∧
      y.machine.st = if s₀.w.d.respLen = 1 then .sttPoll else if s₀.w.d.respLen = 0 then .stop else .rxPoll := by
  obtain ⟨ht, hw, hmem, hlive, hrx, hacks, hstarts, hlog⟩ := h
  obtain ⟨sl', r', hd, hreact⟩ := RefSlave.assertStart_delivered hlive htr (hrx.trans hrdy) x.slave (hacks.addrAck _)
    x.machine.w.u x.machine.w.u
  have hreach := (Reaches.refl (p := p) x).reacted ht
    (State.issue_of_issues (i := .assertStart _) ⟨rfl, .inr (.inl hst)⟩) (engineStep_prepStt p hst) hreact
  have hfirst (h0 : 0 < s₀.w.d.respLen) : ∃ b, rx[0]? = some b ∧ x.slave.rx[x.slave.ri]? = some b := by
    have hlt : 0 < rx.length := Nat.lt_of_lt_of_le h0 hlen
    rw [hacks.rx, hacks.ri]
    exact ⟨_, List.getElem?_eq_getElem hlt, List.getElem?_eq_getElem hlt⟩
  refine ⟨_, hreach, ?_, ⟨ht, by rw [Slaved.update_w, hw], by rw [Slaved.update_w, hw],
    (congrArg Working.rxIndex hw).trans hfresh.rxIndex, (congrArg Working.stopIssued hw).trans hfresh.stopIssued,
    hmem, ?_, ?_, ?_, ?_, ?_, nofun, fun hlt => ?_, fun _ hlt => ?_⟩, ?_⟩
  · rw [Slaved.update_regs, hd.txstt, UnitRegs.flags_started hlive]
  · rw [Slaved.update_regs]
    exact hd.live
  · rw [Slaved.update_regs]
    exact hd.tr
  · rw [Slaved.update_slave]
    exact hd.rx.trans hacks.rx
  · rw [Slaved.update_slave]
    exact hd.stopped
  · rw [Slaved.update_slave]
    exact hd.stops.trans hacks.stops
  · obtain ⟨b, hb, hnext⟩ := hfirst hlt
    obtain ⟨hrdy', hbuf, -⟩ := hd.byte rfl b hnext
    rw [Slaved.update_regs, hbuf]
    exact ⟨hrdy', hb⟩
  · obtain ⟨b, -, hnext⟩ := hfirst hlt
    obtain ⟨-, -, hri⟩ := hd.byte rfl b hnext
    rw [Slaved.update_slave, hri]
    exact congrArg (· + 1) hacks.ri
  · have hindex : x.machine.w.rxIndex = 0 := (congrArg Working.rxIndex hw).trans hfresh.rxIndex
    rw [Slaved.update_st, rxLoop_zero hindex, hw]

/-- S_WAIT_STT: the START is over, and the one STOP is requested (R139, R170). -/
theorem Receiving.stopEarly (h : Receiving s₀ rx false 0 x) (hst : x.machine.st = .sttPoll) (hone : s₀.w.d.respLen = 1)
    (hdone : x.regs.flags.txstt = false) :
    ∃ y, Reaches p 2 x y ∧ y.machine.st = .rxPoll ∧ Receiving s₀ rx true 0 y := by
  obtain ⟨ht, hd, hunit, hindex, hissued, hmem, hlive, htr, hbytes, hstopped, hstops, hsingle, hbyte, hsent⟩ := h
  have hpoll := (Reaches.refl x).unheard ht (State.issue_of_issues (i := .readSttPending _) ⟨rfl, hst⟩)
    (engineStep_sttPoll_done p hst hdone)
  have hreact := RefSlave.react_assertStop (sl := x.slave) (u := x.machine.w.u)
    (t := (((x.machine.setRet 0).setSt .sttStop).setRegs x.machine.w.u x.regs.stopRequested).afterEarlyStop)
    (r := x.regs.stopRequested) (PerUnit.get_set_same ..) x.machine.w.u
  have hreach := hpoll.heard ht rfl (engineStep_sttStop p rfl) hreact
  have hflags := UnitRegs.flags_stopped hlive
  generalize hy : Slaved.mk _ _ = y at hreach
  have hregs : y.regs = BusEvent.stopDone.on x.regs.stopRequested := hy ▸ PerUnit.get_set_same ..
  have hslave : y.slave = x.slave.seenStop := hy ▸ PerUnit.get_set_same ..
  have hw : y.machine.w = { x.machine.w with stopIssued := true } := hy ▸ rfl
  have hst' : y.machine.st = rxLoop x.machine.w := hy ▸ rfl
  rw [rxLoop_zero hindex, hd, hone] at hst'
  rw [← hregs] at hflags
  refine ⟨y, hreach, hst', hy ▸ ht, by rw [hw, hd], by rw [hw, hunit], by rw [hw, hindex], by rw [hw],
    hy ▸ hmem, ?_, ?_, ?_, ?_, ?_, fun _ => hone, fun hlt => ?_, nofun⟩
  · exact hflags ▸ ⟨hlive.held, hlive.configured⟩
  · exact hflags ▸ htr
  · exact hslave ▸ hbytes
  · rw [hslave]
    rfl
  · rw [hslave]
    exact congrArg (· + 1) hstops
  · exact hflags ▸ hbyte hlt

/-- A byte is polled, read and stored, and the slave sends its next one (R141, R170). -/
theorem Receiving.store (h : Receiving s₀ rx early i x) (hst : x.machine.st = .rxPoll) (hi : i < s₀.w.d.respLen)
    (hlen : s₀.w.d.respLen.toNat ≤ rx.length) :
    ∃ y, Reaches p 3 x y ∧ y.machine.st = (if i + 1 < s₀.w.d.respLen then .rxPoll else .stop) ∧
      Receiving s₀ rx early (i + 1) y := by
  obtain ⟨ht, hd, hunit, hindex, hissued, hmem, hlive, htr, hbytes, hstopped, hstops, hsingle, hbyte, hsent⟩ := h
  obtain ⟨hrdy, hb⟩ := hbyte hi
  have hread := x.regs.flags_rxRead
  obtain ⟨sl', r', hdel, hreact⟩ := RefSlave.readRx_delivered (r := x.regs.rxRead)
    (hread ▸ ⟨hlive.held, hlive.configured⟩) (by rw [hread]; exact htr) (by rw [hread]) x.slave x.machine.w.u
    x.machine.w.u
  have hpoll := (Reaches.refl x).unheard ht (State.issue_of_issues (i := .readRxRdy _) ⟨rfl, hst⟩)
    (engineStep_rxPoll_ready p hst hrdy)
  have hreach := hpoll.heard ht rfl (engineStep_rxRead p rfl) (hreact _ (PerUnit.get_set_same ..))
    |>.internal ht rfl (engineStep_rxStore p rfl)
  generalize hy : Slaved.mk _ _ = y at hreach
  have hregs : y.regs = r' := hy ▸ PerUnit.get_set_same ..
  have hslave : y.slave = sl' := hy ▸ PerUnit.get_set_same ..
  have hw : y.machine.w = { x.machine.w with rxIndex := x.machine.w.rxIndex + 1 } := hy ▸ rfl
  have hst' : y.machine.st = rxLoop { x.machine.w with rxIndex := x.machine.w.rxIndex + 1 } := hy ▸ rfl
  have hmem' : y.machine.mem = Memory.writeAt x.machine.mem (rxAddr x.machine.w).toNat x.regs.rxbuf := hy ▸ rfl
  have hsucc : (i + 1).toNat = i.toNat + 1 := by bv_omega
  have hnext (hlt : i + 1 < s₀.w.d.respLen) :
      early = false ∧ ∃ b, rx[(i + 1).toNat]? = some b ∧ x.slave.rx[x.slave.ri]? = some b := by
    have hoff : early = false := Bool.eq_false_iff.2 fun hon => by
      have hone := hsingle hon
      bv_omega
    have hlt' : (i + 1).toNat < rx.length := Nat.lt_of_lt_of_le hlt hlen
    rw [hbytes, hsent hoff hi, ← hsucc]
    exact ⟨hoff, _, List.getElem?_eq_getElem hlt', List.getElem?_eq_getElem hlt'⟩
  refine ⟨y, hreach, ?_, hy ▸ ht, by rw [hw, hd], by rw [hw, hunit], by rw [hw, hindex], by rw [hw, hissued], ?_,
    hregs ▸ hdel.live, hregs ▸ hdel.tr, hslave ▸ hdel.rx.trans hbytes, hslave ▸ hdel.stopped.trans hstopped,
    hslave ▸ hdel.stops.trans hstops, hsingle, fun hlt => ?_, fun _ hlt => ?_⟩
  · rw [hst', rxLoop, hd, hindex]
  · have htake : rx.take (i + 1).toNat = rx.take i.toNat ++ [x.regs.rxbuf] := by
      rw [hsucc, List.take_add_one, hb]
      rfl
    have haddr : s₀.w.d.respPtr + BitVec.ofNat 16 (rx.take i.toNat).length = rxAddr x.machine.w := by
      have hle : i.toNat ≤ rx.length := Nat.le_trans (Nat.le_of_lt hi) hlen
      rw [List.length_take_of_le hle, BitVec.ofNat_toNat, BitVec.setWidth_eq, rxAddr, hd, hindex]
    rw [hmem', htake, writesAt_append, State.writes_append, haddr, State.memWrite_mem, ← hmem]
  · obtain ⟨hoff, b, hb', hnext⟩ := hnext hlt
    obtain ⟨hrdy', hbuf, -⟩ := hdel.byte (hstopped.trans hoff) b hnext
    rw [hregs, hbuf]
    exact ⟨hrdy', hb'⟩
  · obtain ⟨hoff, b, -, hnext⟩ := hnext hlt
    obtain ⟨-, -, hri⟩ := hdel.byte (hstopped.trans hoff) b hnext
    rw [hslave, hri, hsent hoff hi, hsucc]

/-- All bytes of the response are stored (R140, R141). -/
theorem Receiving.all (h : Receiving s₀ rx early i x) (hst : x.machine.st = .rxPoll) (hi : i < s₀.w.d.respLen)
    (hlen : s₀.w.d.respLen.toNat ≤ rx.length) :
    ∃ n y, Reaches p n x y ∧ y.machine.st = .stop ∧ Receiving s₀ rx early s₀.w.d.respLen y := by
  induction hk : s₀.w.d.respLen.toNat - i.toNat generalizing i x with
  | zero =>
    have hlt : i.toNat < s₀.w.d.respLen.toNat := hi
    omega
  | succ k ih =>
    obtain ⟨y, hreach, hst', hy⟩ := h.store (p := p) hst hi hlen
    by_cases hmore : i + 1 < s₀.w.d.respLen
    · rw [if_pos hmore] at hst'
      obtain ⟨n, z, hz, hstop, hall⟩ := ih hy hst' hmore (by bv_omega)
      exact ⟨3 + n, z, hreach.trans hz, hstop, hall⟩
    · rw [if_neg hmore] at hst'
      have hlast : i + 1 = s₀.w.d.respLen := by bv_omega
      exact ⟨3, y, hreach, hst', hlast ▸ hy⟩

/-- The receive phase, single bytes included: S_PREP_RX leads to S_STOP with the response stored (R138 to R141). -/
theorem SentBytes.receivesAll (h : SentBytes s₀ rx starts i x) (hst : x.machine.st = .prepTr) (hfresh : s₀.w.Fresh)
    (hrdy : (s₀.regs s₀.w.u).flags.rxrdy = false) (hlen : s₀.w.d.respLen.toNat ≤ rx.length) :
    ∃ n y early, Reaches p n x y ∧ y.machine.st = .stop ∧ Receiving s₀ rx early s₀.w.d.respLen y := by
  obtain ⟨x1, h1, hst1, htr1, hs1⟩ := h.turned (p := p) hst
  obtain ⟨x2, h2, hdone, hr2, hst2⟩ := hs1.receiving (p := p) hst1 htr1 hfresh hrdy hlen
  by_cases hone : s₀.w.d.respLen = 1
  · rw [if_pos hone] at hst2
    obtain ⟨x3, h3, hst3, hr3⟩ := hr2.stopEarly (p := p) hst2 hone hdone
    obtain ⟨n, y, h4, hstop, hy⟩ := hr3.all (p := p) hst3 (by rw [hone]; decide) hlen
    exact ⟨_, y, true, ((h1.trans h2).trans h3).trans h4, hstop, hy⟩
  · rw [if_neg hone] at hst2
    by_cases hzero : s₀.w.d.respLen = 0
    · rw [if_pos hzero] at hst2
      exact ⟨_, x2, false, h1.trans h2, hst2, hzero ▸ hr2⟩
    · rw [if_neg hzero] at hst2
      obtain ⟨n, y, h3, hstop, hy⟩ := hr2.all (p := p) hst2 (by bv_omega) hlen
      exact ⟨_, y, false, (h1.trans h2).trans h3, hstop, hy⟩

/-! ## The end (R144 to R146) -/

/-- The end of an EXECUTE that `x` leads to: the rest of the unit's and its slave's state is kept, with one STOP. -/
structure Slaved.Ended (x y : Slaved) : Prop where
  result : y.machine.result = 0
  busy : y.machine.busy = false
  st : y.machine.st = .idle
  mem : y.machine.mem = x.machine.mem
  log : (y.slaves.get x.machine.w.u).log = x.slave.log
  starts : (y.slaves.get x.machine.w.u).starts = x.slave.starts
  stops : (y.slaves.get x.machine.w.u).stops = 1

/-- S_STOP requests the STOP unless S_WAIT_STT did, and EXECUTE returns (R144 to R146). -/
theorem reaches_ended (ht : x.machine.turns = []) (hst : x.machine.st = .stop) (hlive : x.regs.flags.Live)
    (hstops : x.slave.stops = if x.machine.w.stopIssued then 1 else 0) : ∃ n y, Reaches p n x y ∧ x.Ended y := by
  cases hissued : x.machine.w.stopIssued with
  | true =>
    rw [hissued] at hstops
    have hissue : x.machine.issue = none := by simp only [State.issue, hst, hissued, if_true]
    exact ⟨1, _, (Reaches.refl x).internal ht hissue (engineStep_stopDone p hst hissued), rfl, rfl, rfl, rfl, rfl,
      rfl, hstops⟩
  | false =>
    rw [hissued] at hstops
    have hflags := UnitRegs.flags_stopped hlive
    have hstop := (Reaches.refl (p := p) x).reacted (r := x.regs.stopRequested) ht
      (State.issue_of_issues (i := .assertStop _) ⟨rfl, .inr (.inr (.inr ⟨hst, hissued⟩))⟩)
      (engineStep_stop p hst hissued) (fun t hr => RefSlave.react_assertStop hr _)
    have hdone : (x.update (BusEvent.stopDone.on x.regs.stopRequested) x.slave.seenStop .stpPoll).regs.txstp =
        false := by
      rw [Slaved.update_regs]
      exact congrArg Flags.txstp hflags
    have hslave : (x.slaves.set x.machine.w.u x.slave.seenStop).get x.machine.w.u = x.slave.seenStop :=
      PerUnit.get_set_same ..
    have hreach := hstop.unheard ht rfl (engineStep_stpPoll_done p rfl hdone)
      |>.internal ht rfl (engineStep_stpRaise p rfl)
    exact ⟨3, _, hreach, rfl, rfl, rfl, rfl, (congrArg RefSlave.log hslave).trans rfl,
      (congrArg RefSlave.starts hslave).trans rfl, (congrArg RefSlave.stops hslave).trans (congrArg (· + 1) hstops)⟩

end

end Sys2Proof.Machine
end

section
/-! PROOFS. EXECUTE with a slave that acknowledges everything returns `NoError`: what it has sent, and what it has
received (R131 to R146, R170, R171). -/

namespace Sys2Proof.Machine

/-- The state in which EXECUTE of the descriptor at `p` of unit `u` starts its transaction in `s` (R84). -/
def State.executing (s : State) (p : Half) (u : UnitId) : State :=
  { s with
    busy := true
    st := .startAddr
    w := { s.w with
      d := s.descriptorAt p, u := u, txIndex := 0, rxIndex := 0, nackCount := 0, stopIssued := false } }

section
variable {prm : Params} {s : State} {p : Half} {u : UnitId} {other : RefSlave} {rx : List Byte}

/-- A slave `AckAll` at the unit, and a started EXECUTE: nothing is sent yet. -/
theorem State.executing_sentBytes (ht : s.turns = []) (hinv : s.inv = true) (hst : s.st = .idle)
    (ha : s.active.get u = true) :
    SentBytes (s.executing p u) rx 0 0
      { slaves := ({ primary := other, secondary := other } : PerUnit RefSlave).set u (RefSlave.ackAll rx)
        machine := s.executing p u } := by
  have hslave := PerUnit.get_set_same ({ primary := other, secondary := other } : PerUnit RefSlave) u (RefSlave.ackAll rx)
  have hunit : s.unitOk u = true := by
    simp only [State.inv, Bool.and_eq_true] at hinv
    obtain ⟨⟨⟨-, hprimary⟩, hsecondary⟩, -⟩ := hinv
    cases u
    · exact hprimary
    · exact hsecondary
  have hlive := State.live_of_active hunit ha fun k => by rw [hst]; nofun
  refine ⟨ht, rfl, rfl, hlive, rfl, ?_, congrArg RefSlave.starts hslave, congrArg RefSlave.log hslave⟩
  rw [Slaved.slave, State.executing, hslave]
  exact ⟨fun _ => rfl, fun _ _ => rfl, rfl, rfl, rfl⟩

/-- EXECUTE of a valid descriptor of an active unit is accepted and sends its message (R84, R131 to R133). -/
theorem execute_sends (ht : s.turns = []) (hinv : s.inv = true) (hb : s.busy = false) (hst : s.st = .idle) (hp : p ≠ 0)
    (ha : s.active.get u = true) (hv : (s.descriptorAt p).valid = 0x01)
    (hid : (s.descriptorAt p).interfaceId = u.bit.setWidth 8) :
    ∃ t n y, exec (.execute p) s = .next t ∧
      Reaches prm n
        { slaves := ({ primary := other, secondary := other } : PerUnit RefSlave).set u (RefSlave.ackAll rx), machine := t }
        y ∧ y.machine.st = afterTransmit (s.executing p u).w ∧
      SentBytes (s.executing p u) rx (if 0 < (s.executing p u).w.d.outLen then 1 else 0)
        (s.executing p u).w.d.outLen y := by
  obtain ⟨-, -, -, -, hentry⟩ := executeEntryChecksInOrder prm s p hb hst ht
  obtain ⟨t, ht', -, -, hrun, htrace⟩ := hentry u hp hv hid ha
  have hturns : t.turns = [] := by
    rw [exec_execute_idle hb hp] at ht'
    cases ht'
    exact ht
  have hsent := State.executing_sentBytes (p := p) (other := other) (rx := rx) ht hinv hst ha
  obtain ⟨n, y, hreach, hy⟩ := hsent.phase (p := prm) rfl
  exact ⟨t, _, y, ht', (reaches_of_untraced hturns hrun htrace _).trans hreach, hy⟩

end

/-- Settles O58: the transmit phase and the STOP. -/
theorem ackAllSlaveReceivesTheMessage : Obligations.AckAllSlaveReceivesTheMessage := by
  intro prm s p u other rx ht hinv hb hst hp ha d hv hid hdir hlen
  obtain ⟨t, n, x, haccept, hreach, hstop, hsent⟩ := execute_sends (prm := prm) (other := other) (rx := rx) ht hinv hb
    hst hp ha hv hid
  rw [afterTransmit_eq, if_neg (by rw [State.executing, hdir]; decide)] at hstop
  obtain ⟨hturns, hw, hmem, hlive, -, hacks, hstarts, hlog⟩ := hsent
  obtain ⟨m, y, hend, hresult, hbusy, hidle, hmem', hlog', hstarts', hstops⟩ := reaches_ended (p := prm) hturns hstop
    hlive (by rw [hw]; exact hacks.stops)
  have hu : x.machine.w.u = u := congrArg Working.u hw
  rw [hu] at hlog' hstarts' hstops
  refine ⟨t, n + m, y, haccept, hreach.trans hend, hresult, hbusy, hidle, hmem'.trans hmem, ?_, ?_, hstops⟩
  · rw [hlog', hlog, ← State.message_length, List.take_length]
    rfl
  · exact (hstarts'.trans hstarts).trans (if_pos hlen)

/-- Settles O59: the message if there is one, the receive phase and the STOP. -/
theorem ackAllSlaveFillsTheResponse : Obligations.AckAllSlaveFillsTheResponse := by
  intro prm s p u other rx ht hinv hb hst hp ha hrdy d hv hid hdir hlen
  obtain ⟨t, n, x, haccept, hreach, hprep, hsent⟩ := execute_sends (prm := prm) (other := other) (rx := rx) ht hinv hb
    hst hp ha hv hid
  have hdir' : (s.executing p u).w.d.direction = 1 := hdir
  rw [afterTransmit_eq, if_pos hdir'] at hprep
  obtain ⟨m, z, early, hreceive, hstop, h⟩ := hsent.receivesAll (p := prm) hprep ⟨rfl, rfl⟩ hrdy hlen
  obtain ⟨k, y, hend, hresult, hbusy, hidle, hmem, -, -, hstops⟩ := reaches_ended (p := prm) h.turns hstop h.live
    (by rw [h.issued]; exact h.stops)
  have hu : z.machine.w.u = u := h.unit
  rw [hu] at hstops
  have hwf : Memory.wf s.mem = true := by
    simp only [State.inv, Bool.and_eq_true] at hinv
    obtain ⟨⟨⟨⟨⟨hwf, -⟩, -⟩, -⟩, -⟩, -⟩ := hinv
    exact hwf
  refine ⟨t, _, y, haccept, (hreach.trans hreceive).trans hend, hresult, hbusy, hidle, hstops, fun j hj => ?_⟩
  have hlength := List.length_take_of_le hlen
  have hread := State.memRead_writesAt (s := s.executing p u) (p := d.respPtr) (l := rx.take d.respLen.toNat) (k := j) hwf
    (by rw [hlength]; exact Nat.le_of_lt d.respLen.isLt) (by rw [hlength]; exact hj)
  have hfinal : y.machine.memRead (d.respPtr + BitVec.ofNat 16 j) = (rx.take d.respLen.toNat)[j] :=
    (congrArg (Memory.readAt · _) (hmem.trans h.mem)).trans hread
  rw [hfinal, List.getElem_take]
  exact List.getElem?_eq_getElem _

end Sys2Proof.Machine
end

section
/-! PROOFS. The bus agents (R160 to R166): when an event happens and what it leaves unchanged; and that the engine never
does an agent's part (R169). -/

namespace Sys2Proof.Machine

/-! ## Bits -/

theorem and_and_absorb (x m : Byte) : (x &&& m) &&& x = x &&& m := by
  rw [BitVec.and_comm, ← BitVec.and_assoc, BitVec.and_self]

theorem or_and_absorb (x m : Byte) : (x ||| m) &&& x = x := by
  ext i hi
  simp only [BitVec.getElem_and, BitVec.getElem_or]
  cases x[i] <;> cases m[i] <;> rfl

/-! ## A turn of a bus agent -/

theorem stepWith_bus {p : Params} {s : State} {u : UnitId} {e : BusEvent} {rest : List Turn}
    (h : s.turns = .bus u e :: rest) : stepWith p s = .next (({ s with turns := rest } : State).busEvent u e) := by
  simp only [stepWith, h]

/-- The precondition of an event of a released and configured unit (R161 to R165). -/
def BusEvent.Precondition (e : BusEvent) (r : UnitRegs) : Prop :=
  match e with
  | .startDone => r.txstt = true
  | .stopDone => r.txstp = true
  | .txReady => r.tr = true ∧ r.txrdy = false
  | .nack => r.nack = false
  | .rxByte _ => r.tr = false ∧ r.rxrdy = false

theorem BusEvent.enabled_iff (e : BusEvent) (r : UnitRegs) :
    e.enabled r = true ↔ r.swrst = false ∧ r.ctl0 = 0x0F ∧ e.Precondition r := by
  cases e <;> simp [BusEvent.enabled, BusEvent.Precondition, UnitRegs.configured, and_assoc]

/-- Settles O18: the precondition and the effect of each event are those of `enabled` and `effect`. -/
theorem busEventsHappenWhenEnabled : Obligations.BusEventsHappenWhenEnabled := by
  intro prm s u e rest ht r happens r'
  have hiff : e.enabled r = true ↔ happens := by
    rw [e.enabled_iff]
    cases e <;> exact Iff.rfl
  have heffect : e.effect r = r' := by cases e <;> rfl
  rw [stepWith_bus ht, ← hiff, ← heffect]
  exact ⟨fun h => congrArg Host.Outcome.next (if_pos h), fun h => congrArg Host.Outcome.next (if_neg h)⟩

/-- An event changes no bit of `CTL1` but the two requests (R161, R162). -/
theorem BusEvent.effect_ctl1 (e : BusEvent) (r : UnitRegs) : (e.effect r).ctl1 &&& 0xF9 = r.ctl1 &&& 0xF9 := by
  cases e with
  | startDone | stopDone => exact BitVec.and_assoc ..
  | txReady | nack | rxByte => rfl

/-- An event clears no flag of `IFG` (R163 to R165). -/
theorem BusEvent.effect_ifg (e : BusEvent) (r : UnitRegs) : (e.effect r).ifg &&& r.ifg = r.ifg := by
  cases e with
  | startDone | stopDone => exact BitVec.and_self
  | txReady | nack | rxByte => exact or_and_absorb ..

/-- Settles O19: an agent's turn replaces the registers of its unit alone, by the event's effect on them or by
themselves. -/
theorem busAgentNeverChangesTheRest : Obligations.BusAgentNeverChangesTheRest := by
  intro prm s t u e rest ht h
  rw [stepWith_bus ht, State.busEvent_eq] at h
  cases h
  refine ⟨rfl, rfl, rfl, rfl, rfl, rfl, fun v hv => State.setRegs_regs_other _ u _ hv, ?_⟩
  rw [State.setRegs_regs]
  split
  · obtain ⟨hctl0, hbrl, hbrh, hsa, htxbuf, hpsel, -⟩ := e.effect_frame (s.regs u)
    exact ⟨hctl0, e.effect_ctl1 _, hbrl, hbrh, hsa, htxbuf, hpsel, e.effect_ifg _⟩
  · exact ⟨rfl, rfl, rfl, rfl, rfl, rfl, rfl, BitVec.and_self⟩

/-! ## The engine and the bits of the bus agents -/

/-- A side effect only clears flags (R51). -/
theorem UnitRegs.sideEffect_ifg_lowers (r : UnitRegs) (k : AccessKind) (reg : UnitReg) (d : Byte) :
    (r.sideEffect k reg d).ifg &&& r.ifg = (r.sideEffect k reg d).ifg := by
  rw [UnitRegs.sideEffect_ifg]
  split
  · exact and_and_absorb ..
  · split
    · exact and_and_absorb ..
    · split
      · exact and_and_absorb ..
      · exact BitVec.and_self

/-- The engine's accesses of `IFG` are reads and clears (R115 to R117, R120). -/
theorem Instr.access_of_ifg {i : Instr} {a : Access} (h : i.access = some a) (hreg : a.reg = .IFG) :
    a.kind = .RD ∨ a.kind = .CLR := by
  cases i <;> simp only [Instr.access, Option.some.injEq, reduceCtorEq] at h <;> subst h
  case readTxRdy | readRxRdy | readNack => exact .inl rfl
  case clearTxRdy => exact .inr rfl
  all_goals cases hreg

/-- No primitive sets a flag of `IFG` (R169). -/
theorem Instr.access_ifg_lowers {i : Instr} {a : Access} (h : i.access = some a) (r : UnitRegs) :
    (r.access a.kind a.reg a.data).ifg &&& r.ifg = (r.access a.kind a.reg a.data).ifg := by
  obtain ⟨k, u, reg, d⟩ := a
  by_cases hreg : reg = .IFG
  · subst hreg
    have hvalue : (r.access k .IFG d).ifg = accessValue k .IFG r.ifg d := r.access_get_self k .IFG d
    rw [hvalue]
    rcases Instr.access_of_ifg h rfl with hk | hk <;> cases hk
    · exact BitVec.and_self
    · exact and_and_absorb ..
  · have hlow := (r.put reg (accessValue k reg (r.get reg) d)).sideEffect_ifg_lowers k reg d
    rwa [UnitRegs.put_ifg _ _ hreg] at hlow

/-- The primitives of `CTL1` but ZeroCtl1 read it, set bits, or clear `SWRST` or `TR` (R101 to R119). -/
theorem Instr.access_of_ctl1 {i : Instr} {a : Access} (h : i.access = some a) (hi : ∀ u, i ≠ .zeroCtl1 u)
    (hreg : a.reg = .CTL1) : a.kind = .RD ∨ a.kind = .SET ∨ (a.kind = .CLR ∧ (a.data = 0x01 ∨ a.data = 0x10)) := by
  cases i <;> simp only [Instr.access, Option.some.injEq, reduceCtorEq] at h <;> subst h
  case zeroCtl1 u => exact absurd rfl (hi u)
  case readSttPending | readStpPending => exact .inl rfl
  case disableUnit | selectClock | setTR | assertStart | assertStop => exact .inr (.inl rfl)
  case enableUnit => exact .inr (.inr ⟨rfl, .inl rfl⟩)
  case clearTR => exact .inr (.inr ⟨rfl, .inr rfl⟩)
  all_goals cases hreg

/-- No primitive but ZeroCtl1 withdraws a pending request (R15, R169). -/
theorem Instr.access_keeps_requests {i : Instr} {a : Access} (h : i.access = some a) (hi : ∀ u, i ≠ .zeroCtl1 u)
    (r : UnitRegs) : (r.access a.kind a.reg a.data).ctl1 &&& r.ctl1 &&& 0x06 = r.ctl1 &&& 0x06 := by
  obtain ⟨k, u, reg, d⟩ := a
  by_cases hreg : reg = .CTL1
  · subst hreg
    have hvalue : (r.access k .CTL1 d).ctl1 = accessValue k .CTL1 r.ctl1 d := r.access_get_self k .CTL1 d
    rw [hvalue]
    rcases Instr.access_of_ctl1 h hi rfl with hk | hk | ⟨hk, hd⟩ <;> cases hk
    · exact congrArg (· &&& 0x06) BitVec.and_self
    · exact congrArg (· &&& 0x06) (or_and_absorb ..)
    · rw [accessValue, and_and_absorb, BitVec.and_assoc]
      rcases hd with hd | hd <;> cases hd <;> rfl
  · have hother : (r.access k reg d).ctl1 = r.ctl1 := r.access_get_other k d (other := .CTL1) (Ne.symm hreg) nofun
    rw [hother, BitVec.and_self]

/-- What the engine's step leaves in a unit's registers: those it found, or those after a primitive that it issued. -/
theorem engineStep_regs {p : Params} {s t : State} (h : engineStep p s = .next t) (v : UnitId) :
    t.regs v = s.regs v ∨
      ∃ i a, s.issue = some i ∧ i.access = some a ∧ t.regs v = (s.regs v).access a.kind a.reg a.data := by
  rcases engineStep_cases h with ⟨i, a, x, hi, ha, -, rfl⟩ | ⟨hi, rfl⟩
  · obtain ⟨-, hunits, -, -, -⟩ := State.advance_frame (s.accessed i a x) p
    rw [State.regs, hunits, ← State.regs]
    by_cases hv : v = a.unit
    · exact .inr ⟨i, a, hi, ha, by rw [hv, State.accessed_regs]⟩
    · exact .inl (State.accessed_regs_other s i a x hv)
  · exact .inl (congrArg (PerUnit.get · v) (State.internal_move hi).frame.1)

/-- Settles O20: the engine changes registers by its primitives alone, and ZeroCtl1 is ACTIVATE's third access. -/
theorem engineNeverSetsFlagsNorServesRequests : Obligations.EngineNeverSetsFlagsNorServesRequests := by
  intro prm s t v ht h
  rw [stepWith_engine ht] at h
  rcases engineStep_regs h v with hregs | ⟨i, a, hi, ha, hregs⟩ <;> rw [hregs]
  · exact ⟨BitVec.and_self, fun _ => by rw [BitVec.and_self]⟩
  · refine ⟨Instr.access_ifg_lowers ha _, fun hst => Instr.access_keeps_requests ha ?_ _⟩
    rintro u rfl
    obtain ⟨-, hplace⟩ := (s.issue_iff _).1 hi
    exact hst hplace

end Sys2Proof.Machine
end

section
/-! PROOFS. The codes of each command (R181): where a command ends it raises, and `State.placeOk` bounds the code that is
raised there. -/

namespace Sys2Proof.Machine

/-- The codes that a command may raise in each value of `st`; in a state without a code no command ends (R181). -/
def St.MayRaise (c : ErrorCode) : St → Prop
  | .S_BUILD => c = .noError ∨ c = .badParameters
  | .S_ACT => c = .noError ∨ c = .notInitialized ∨ c = .unspecifiedError
  | .S_ENTRY => c = .notInitialized ∨ c = .interfaceNotActive ∨ c = .unspecifiedError
  | .S_TX | .S_RX => c = .nackLimitReached
  | .S_STOP | .S_WAIT_STP => c = .noError
  | .S_IDLE | .S_START | .S_PREP_RX | .S_WAIT_STT => False

section
variable {p : Params} {s t : State}

/-- A step that is no register access ends a command only by a `raise`, of a code that its state may raise. -/
theorem State.internal_ends (hok : s.placeOk = true) (hi : s.issue = none) (hne : s.st ≠ .idle)
    (hend : s.internal.st = .idle) : ∃ c, s.st.st.MayRaise c ∧ s.internal = s.raise c := by
  have hplace := (State.placeOk_iff s).1 hok
  unfold State.internal at hend ⊢
  cases hst : s.st <;> simp only [State.issue, hst, reduceCtorEq] at hplace hi hend ⊢
  case idle => exact absurd hst hne
  case entryLoad ptr got =>
    obtain ⟨w, st, he, hset⟩ := s.loadDescriptor_eq ptr got
    rw [he] at hend
    exact absurd (congrArg EngineState.st hend) hset.1
  case actLoad ptr got =>
    obtain ⟨w, st, he, hset⟩ := s.loadConfig_eq ptr got
    rw [he] at hend
    exact absurd (congrArg EngineState.st hend) hset.1
  case txFetch => cases hend
  case rxStore => exact absurd (congrArg EngineState.st hend) (EngineState.settled_of_inExecute (rxLoop_inExecute _)).1
  case build ws c =>
    cases ws with
    | nil => exact ⟨c, hplace, rfl⟩
    | cons x rest => cases hend
  case entryRaise c => exact ⟨c, hplace.imp_right Or.symm, rfl⟩
  case actRaise c => exact ⟨c, hplace, rfl⟩
  case txRaise | rxRaise | stop | stpRaise => exact ⟨_, rfl, rfl⟩

theorem engineStep_ends (hok : s.placeOk = true) (h : engineStep p s = .next t) (hne : s.st ≠ .idle)
    (hend : t.st = .idle) : ∃ c, s.st.st.MayRaise c ∧ t = s.raise c := by
  rcases engineStep_cases h with ⟨i, a, x, hi, -, -, rfl⟩ | ⟨hi, rfl⟩
  · exact absurd (congrArg EngineState.st hend)
      (State.advance_st_ne_idle (s := s.accessed i a x) p (State.issue_place (s := s) hi))
  · exact State.internal_ends hok hi hne hend

/-- With only moves of the engine and the bus agents to come, a command ends by a `raise` of a code that its state may
raise. -/
theorem stepWith_ends (hok : s.placeOk = true) (hq : s.quiet = true) (h : stepWith p s = .next t) (hne : s.st ≠ .idle)
    (hend : t.st = .idle) : ∃ c rest, s.st.st.MayRaise c ∧ t = { s with turns := rest }.raise c := by
  rcases stepWith_next h with ⟨-, he⟩ | ⟨rest, -, he⟩ | ⟨u, e, rest, -, rfl⟩ | ⟨bytes, rest, i, first, ht, -⟩ |
    ⟨a, b, rest, ht, -⟩ | ⟨rest, ht, -⟩
  · obtain ⟨c, hc, rfl⟩ := engineStep_ends hok he hne hend
    exact ⟨c, s.turns, hc, rfl⟩
  · obtain ⟨c, hc, rfl⟩ := engineStep_ends (s := { s with turns := rest }) hok he hne hend
    exact ⟨c, rest, hc, rfl⟩
  · rw [State.busEvent_eq] at hend
    exact absurd hend hne
  all_goals simp [State.quiet, ht, Turn.quiet] at hq

end

/-- Settles O38: the step that ends a command is a `raise`, and `St.MayRaise` lists the codes of its state. -/
theorem commandsRaiseOnlyTheirCodes : Obligations.CommandsRaiseOnlyTheirCodes := by
  intro prm s t hok hq h hne hend
  obtain ⟨c, rest, hc, rfl⟩ := stepWith_ends hok hq h hne hend
  have hcode : ∀ {e : St}, s.st.st = e → e.MayRaise c := fun he => he ▸ hc
  refine ⟨rfl, fun he => ?build, fun he => ?act, fun he => ?entry, fun he => ?limit, fun he => ?done, hcode, hcode, hcode⟩
  case build => exact (hcode he).imp (congrArg ErrorCode.byte) (congrArg ErrorCode.byte)
  case act | entry =>
    exact (hcode he).imp (congrArg ErrorCode.byte) (Or.imp (congrArg ErrorCode.byte) (congrArg ErrorCode.byte))
  case limit => exact congrArg ErrorCode.byte (he.elim hcode hcode)
  case done => exact congrArg ErrorCode.byte (he.elim hcode hcode)

end Sys2Proof.Machine
end

section
/-! PROOFS. Under `RestartMessage` a slave that NACKs a byte in the middle of the message after every START keeps EXECUTE
in S_TX (R136, R223): what holds at each place of the loop, and that every step keeps it. -/

namespace Sys2Proof.Machine

/-- A slave that acknowledges its address and the first `k` bytes after every START, and not byte `k + 1` (R223). -/
structure RefSlave.NacksAfter (sl : RefSlave) (k : Nat) : Prop where
  addrAck : ∀ j, sl.addrAck j = true
  dataAck : ∀ j i, sl.dataAck j i = (i != k + 1)

/-- The transmit index counts the bytes written since the last START, of which `k` at most are acknowledged. -/
structure Working.AtByte (w : Working) (k since : Nat) : Prop where
  index : w.txIndex.toNat = since
  le : since ≤ k

/-- The NACK of a byte just written is still to be observed. -/
structure Working.NackWaits (w : Working) (f : Flags) : Prop where
  txrdy : f.txrdy = false
  nack : f.nack = true
  count : w.nackCount = 0

/-- What holds at the places of the loop (R131, R133 to R136); EXECUTE comes to no other place. -/
def LoopPlace (k : Nat) (w : Working) (f : Flags) (since : Nat) : EngineState → Prop
  | .startAddr | .startTr => w.txIndex = 0
  | .startStt | .txRestart => f.tr = true ∧ w.txIndex = 0
  | .txPoll => f.tr = true ∧ (f.txrdy = true ∧ w.AtByte k since ∨ w.NackWaits f)
  | .txFetch | .txWrite => f.tr = true ∧ w.AtByte k since
  | .txNack => f.tr = true ∧ w.NackWaits f
  | _ => False

theorem LoopPlace.st {k since : Nat} {w : Working} {f : Flags} {e : EngineState} (h : LoopPlace k w f since e) :
    e.st = .S_START ∨ e.st = .S_TX := by
  cases e
  case startAddr | startTr | startStt => exact .inl rfl
  case txPoll | txFetch | txWrite | txNack | txRestart => exact .inr rfl
  all_goals exact h.elim

/-! ## The slave's answer to a byte -/

/-- The event with which a slave answers the next byte written (R170). -/
def RefSlave.answer (sl : RefSlave) : BusEvent :=
  if sl.dataAck (sl.nbytes + 1) (sl.since + 1) then .txReady else .nack

theorem RefSlave.onWrite_answer {sl : RefSlave} {u : UnitId} {t : State} {r : UnitRegs} (hr : t.regs u = r) (b : Byte) :
    sl.onWrite u b t = (sl.seenByte b, t.setRegs u (sl.answer.on r)) := by
  simp only [RefSlave.onWrite, State.busEvent_on, hr]
  rfl

/-- A byte written and not acknowledged (R170). -/
theorem UnitRegs.flags_written_nack {r : UnitRegs} (h : r.flags.Live) (b : Byte) :
    (BusEvent.nack.on (r.written b)).flags = { r.flags with txrdy := false, nack := true } := by
  have hw := r.flags_written b
  rw [UnitRegs.flags_nack (by rw [hw]; exact ⟨h.held, h.configured⟩), hw]

/-- A WriteTx and its answer follow (R121, R133, R170). -/
theorem Reaches.answered {p : Params} {n : Nat} {x₀ x : Slaved} (h : Reaches p n x₀ x) (ht : x.machine.turns = [])
    (hst : x.machine.st = .txWrite) :
    Reaches p (n + 1) x₀
      { slaves := x.slaves.set x.machine.w.u (x.slave.seenByte x.machine.ret)
        machine :=
          (x.machine.setRegs x.machine.w.u (x.slave.answer.on (x.regs.written x.machine.ret))).afterWrite } := by
  have hreact := RefSlave.onWrite_answer (sl := x.slave) (u := x.machine.w.u)
    (t := (x.machine.setRegs x.machine.w.u (x.regs.written x.machine.ret)).afterWrite)
    (r := x.regs.written x.machine.ret) (PerUnit.get_set_same ..) x.machine.ret
  have hreach := h.heard ht (State.issue_of_issues (i := .writeTx _ _) ⟨rfl, hst, rfl⟩) (engineStep_txWrite p hst)
    hreact
  rwa [State.setRegs_afterWrite_setRegs] at hreach

/-! ## The loop -/

/-- EXECUTE is in the loop that the slave of its unit keeps it in. -/
structure Livelocked (k : Nat) (x : Slaved) : Prop where
  turns : x.machine.turns = []
  busy : x.machine.busy = true
  live : x.regs.flags.Live
  slave : x.slave.NacksAfter k
  len : k + 2 ≤ x.machine.w.d.outLen.toNat
  place : LoopPlace k x.machine.w x.regs.flags x.slave.since x.machine.st

section
variable {p : Params} {k : Nat} {x : Slaved} (h : Livelocked k x)
include h

theorem Livelocked.update {r : UnitRegs} {sl : RefSlave} {e : EngineState} (hlive : r.flags.Live)
    (hsl : sl.NacksAfter k) (hplace : LoopPlace k x.machine.w r.flags sl.since e) :
    Livelocked k (x.update r sl e) := by
  refine ⟨h.turns, h.busy, ?_, ?_, h.len, ?_⟩
  · rwa [Slaved.update_regs]
  · rwa [Slaved.update_slave]
  · rwa [Slaved.update_regs, Slaved.update_slave]

/-- A read leaves the unit and its slave as they are. -/
theorem Livelocked.setRet (b : Byte) {e : EngineState}
    (hplace : LoopPlace k x.machine.w x.regs.flags x.slave.since e) :
    Livelocked k { x with machine := (x.machine.setRet b).setSt e } :=
  ⟨h.turns, h.busy, h.live, h.slave, h.len, hplace⟩

/-- The first START and every retry: the slave acknowledges its address and asks for the first byte (R131, R135, R170). -/
theorem Livelocked.start (hst : x.machine.st = .startStt ∨ x.machine.st = .txRestart)
    (hplace : x.regs.flags.tr = true ∧ x.machine.w.txIndex = 0) :
    ∃ y, Reaches p 1 x y ∧ Livelocked k y := by
  obtain ⟨htr, hindex⟩ := hplace
  have hi : x.machine.issue = some (.assertStart x.machine.w.u) :=
    State.issue_of_issues ⟨rfl, hst.imp_right fun h => .inr (.inl h)⟩
  have he : engineStep p x.machine = .next ((x.machine.setRegs x.machine.w.u x.regs.startRequested).setSt .txPoll) :=
    hst.elim (engineStep_startStt p) (engineStep_txRestart p)
  have hflags := UnitRegs.flags_start_ready h.live htr
  refine ⟨_, (Reaches.refl x).reacted h.turns hi he fun t hr => RefSlave.onStart_transmit hr (h.slave.addrAck _) ?_,
    h.update ?_ ⟨h.slave.addrAck, h.slave.dataAck⟩ ⟨?_, .inl ⟨?_, ?_, Nat.zero_le k⟩⟩⟩
  · rw [UnitRegs.flags_started h.live]
    exact htr
  · exact hflags ▸ ⟨h.live.held, h.live.configured⟩
  · rw [hflags]
    exact htr
  · rw [hflags]
  · rw [hindex]
    rfl

/-- A byte is written: the slave asks for the next one, or NACKs byte `k + 1` (R121, R133, R170). -/
theorem Livelocked.write (hst : x.machine.st = .txWrite)
    (hplace : x.regs.flags.tr = true ∧ x.machine.w.AtByte k x.slave.since) :
    ∃ y, Reaches p 1 x y ∧ Livelocked k y := by
  obtain ⟨htr, hindex, hle⟩ := hplace
  have hlen := h.len
  have hsucc : (x.machine.w.txIndex + 1).toNat = x.slave.since + 1 := by bv_omega
  have hlast : x.machine.w.txIndex + 1 ≠ x.machine.w.d.outLen := fun heq => by
    rw [heq] at hsucc
    omega
  have hreach := (Reaches.refl (p := p) x).answered h.turns hst
  generalize hy : Slaved.mk _ _ = y at hreach
  have hregs : y.regs = x.slave.answer.on (x.regs.written x.machine.ret) := hy ▸ PerUnit.get_set_same ..
  have hsl : y.slave = x.slave.seenByte x.machine.ret := hy ▸ PerUnit.get_set_same ..
  have hw : y.machine.w = { x.machine.w with nackCount := 0, txIndex := x.machine.w.txIndex + 1 } := hy ▸ rfl
  have hst' : y.machine.st = .txPoll := hy ▸ if_neg hlast
  have hloop (hlive : y.regs.flags.Live) (hplace : LoopPlace k y.machine.w y.regs.flags y.slave.since .txPoll) :
      Livelocked k y :=
    ⟨hy ▸ h.turns, hy ▸ h.busy, hlive, hsl ▸ ⟨h.slave.addrAck, h.slave.dataAck⟩, by rw [hw]; exact hlen, hst' ▸ hplace⟩
  refine ⟨y, hreach, ?_⟩
  by_cases hend : x.slave.since = k
  · have hanswer : x.slave.answer = .nack := by simp [RefSlave.answer, h.slave.dataAck, hend]
    rw [hanswer] at hregs
    have hflags := UnitRegs.flags_written_nack h.live x.machine.ret
    rw [← hregs] at hflags
    refine hloop (hflags ▸ ⟨h.live.held, h.live.configured⟩) ?_
    rw [hflags, hw]
    exact ⟨htr, .inr ⟨rfl, rfl, rfl⟩⟩
  · have hanswer : x.slave.answer = .txReady := by simp [RefSlave.answer, h.slave.dataAck, hend]
    rw [hanswer] at hregs
    have hflags := UnitRegs.flags_written_ready h.live x.machine.ret htr
    rw [← hregs] at hflags
    refine hloop (hflags ▸ ⟨h.live.held, h.live.configured⟩) ?_
    rw [hflags, hw, hsl]
    exact ⟨htr, .inl ⟨rfl, hsucc, Nat.lt_of_le_of_ne hle hend⟩⟩

/-- The NACK is observed, the first since a byte was written, and the message starts again (R135, R136). -/
theorem Livelocked.rewind (hp : p.nackPolicy = .restartMessage) (hst : x.machine.st = .txNack)
    (hplace : x.regs.flags.tr = true ∧ x.machine.w.NackWaits x.regs.flags) :
    ∃ y, Reaches p 1 x y ∧ Livelocked k y := by
  obtain ⟨htr, -, hnack, hcount⟩ := hplace
  have hretry := engineStep_txNack_retry p hst hnack (by rw [hcount]; decide)
  rw [hp] at hretry
  exact ⟨_, (Reaches.refl x).unheard h.turns (State.issue_of_issues (i := .readNack _) ⟨rfl, .inl hst⟩) hretry,
    h.turns, h.busy, h.live, h.slave, h.len, htr, rfl⟩

/-- Every step of the loop leads to a place of the loop. -/
theorem Livelocked.step (hp : p.nackPolicy = .restartMessage) : ∃ y, Reaches p 1 x y ∧ Livelocked k y := by
  have hplace := h.place
  have hpos : 0 < x.machine.w.d.outLen := Nat.lt_of_lt_of_le (Nat.succ_pos _) h.len
  cases hst : x.machine.st <;> simp only [hst, LoopPlace] at hplace
  case startAddr =>
    have haddr := engineStep_startAddr p hst
    rw [if_pos hpos] at haddr
    exact ⟨_, (Reaches.refl x).access (r := x.regs.addressed _) h.turns
      (State.issue_of_issues (i := .writeSlaveAddr _ _) ⟨rfl, hst, rfl⟩) haddr, h.update h.live h.slave hplace⟩
  case startTr =>
    have hflags := x.regs.flags_transmitting
    refine ⟨_, (Reaches.refl x).access (r := x.regs.transmitting) h.turns
      (State.issue_of_issues (i := .setTR _) ⟨rfl, hst⟩) (engineStep_startTr p hst), h.update ?_ h.slave ⟨?_, hplace⟩⟩
    · exact hflags ▸ ⟨h.live.held, h.live.configured⟩
    · rw [hflags]
  case startStt => exact h.start (.inl hst) hplace
  case txRestart => exact h.start (.inr hst) hplace
  case txPoll =>
    have hi := State.issue_of_issues (s := x.machine) (i := .readTxRdy _) ⟨rfl, hst⟩
    obtain ⟨htr, ⟨hready, hbyte⟩ | hwaits⟩ := hplace
    · exact ⟨_, (Reaches.refl x).unheard h.turns hi (engineStep_txPoll_ready p hst hready), h.setRet _ ⟨htr, hbyte⟩⟩
    · exact ⟨_, (Reaches.refl x).unheard h.turns hi (engineStep_txPoll_waiting p hst hwaits.txrdy),
        h.setRet _ ⟨htr, hwaits⟩⟩
  case txFetch =>
    exact ⟨_, (Reaches.refl x).internal h.turns (by simp only [State.issue, hst]) (engineStep_txFetch p hst),
      h.setRet _ hplace⟩
  case txWrite => exact h.write hst hplace
  case txNack => exact h.rewind hp hst hplace

theorem Livelocked.run (hp : p.nackPolicy = .restartMessage) (n : Nat) : ∃ y, Reaches p n x y ∧ Livelocked k y := by
  induction n with
  | zero => exact ⟨x, .refl x, h⟩
  | succ n ih =>
    obtain ⟨y, hy, hloop⟩ := ih
    obtain ⟨z, hz, hloop'⟩ := hloop.step hp
    exact ⟨z, hy.trans hz, hloop'⟩

end

/-- Settles O60: EXECUTE enters the loop at S_START, and every place of the loop is in S_START or S_TX. -/
theorem restartMessageCanLivelock : Obligations.RestartMessageCanLivelock := by
  intro nackCheck s n k other rx ht hok hunit hbusy hst _ hlen
  have hplace := (State.placeOk_iff s).1 hok
  rw [hst] at hplace
  obtain ⟨hactive, -, hindex, -⟩ := hplace
  have hlive := State.live_of_active hunit hactive (fun j => by rw [hst]; nofun)
  let slaves : PerUnit RefSlave := { primary := other, secondary := other }
  let x : Slaved :=
    { slaves := slaves.set s.w.u (RefSlave.new (fun _ => true) (fun _ since => since != k + 1) rx), machine := s }
  have hslave : x.slave = RefSlave.new (fun _ => true) (fun _ since => since != k + 1) rx := PerUnit.get_set_same ..
  have hloop : Livelocked k x := by
    refine ⟨ht, hbusy, hlive, hslave ▸ ⟨fun _ => rfl, fun _ _ => rfl⟩, hlen, ?_⟩
    show LoopPlace k s.w _ _ s.st
    rw [hst]
    exact hindex
  obtain ⟨y, hreach, hy⟩ := hloop.run (p := { nackPolicy := .restartMessage, rxNackCheck := nackCheck }) rfl n
  exact ⟨y, hreach, hy.busy, hy.place.st⟩

end Sys2Proof.Machine
end

section
/-! PROOFS. Power-on reset (R210 to R212): the values it leaves, the invariants that hold there, and that the reset state
stands still until the host's first move. -/

namespace Sys2Proof.Machine

theorem stepWith_powerOn {p : Params} {s : State} {rest : List Turn} (h : s.turns = .powerOn :: rest) :
    stepWith p s = .next { State.reset with turns := rest } := by
  simp only [stepWith, h, State.powerOn]

theorem State.reset_regs (u : UnitId) : State.reset.regs u = UnitRegs.reset := by cases u <;> rfl

/-- A reset unit is held, so its bus agent has no move (R212). -/
theorem State.reset_not_enabled (u : UnitId) (e : BusEvent) : e.enabled (State.reset.regs u) = false :=
  e.enabled_of_held (by rw [State.reset_regs]; rfl)

/-- Settles O22: a power-on turn leaves the reset state but for the moves to come. -/
theorem resetLeavesTheGivenValues : Obligations.ResetLeavesTheGivenValues := by
  intro prm s rest ht
  refine ⟨_, stepWith_powerOn ht, rfl, fun x hx => ?_⟩
  obtain ⟨ts, rfl⟩ : ∃ ts, x = { State.reset with turns := ts } := by
    rcases hx with rfl | rfl
    · exact ⟨rest, rfl⟩
    · exact ⟨[], rfl⟩
  refine ⟨rfl, rfl, rfl, fun u => ?_⟩
  have hregs : ({ State.reset with turns := ts } : State).regs u = UnitRegs.reset := State.reset_regs u
  rw [hregs]
  exact ⟨rfl, rfl, rfl, rfl⟩

/-- Settles O23: the units are held, and the engine is in S_IDLE. -/
theorem resetStateIsStable : Obligations.ResetStateIsStable := by
  intro prm u e rest
  have hoff := State.reset_not_enabled u e
  refine ⟨hoff, ?_, ?_, ?_⟩
  · rw [stepWith_bus rfl]
    exact congrArg Host.Outcome.next (if_neg (Bool.eq_false_iff.1 hoff))
  · rw [stepWith_engineTurn rfl, engineStep_idle prm rfl]
  · rw [stepWith_engine rfl, engineStep_idle prm rfl]

/-- Settles O30: the invariants one by one. -/
theorem resetMeetsTheInvariants : Obligations.ResetMeetsTheInvariants := by
  have hreserved : State.reset.reservedZero = true := (State.reservedZero_iff _).2 State.reset_reservedZero
  have hbusy : State.reset.busyOk = true := rfl
  have hplace : State.reset.placeOk = true := rfl
  simp only [Obligations.ResetMeetsTheInvariants, State.inv, Memory.reset_wf, hreserved, hbusy, State.reset_unitOk,
    hplace, Bool.and_self]

end Sys2Proof.Machine
end
